-- ==== Sys2Proof/Word.lean ====
section
/-! DEFINITION. The word types of the block and the small fixed-size containers its records use.
Widths are those of 00_scope.md rule R13; the count of like things is that of rule R9. -/

namespace Sys2Proof

/-- An unsigned byte (rule R13). -/
abbrev U8 := BitVec 8
/-- An unsigned 16-bit register (rule R13). -/
abbrev U16 := BitVec 16
/-- A two's complement 16-bit register; its number is `BitVec.toInt` (rule R13). -/
abbrev S16 := BitVec 16
/-- An unsigned 32-bit register (rule R13). -/
abbrev U32 := BitVec 32
/-- A two's complement 32-bit register; its number is `BitVec.toInt` (rule R13). -/
abbrev S32 := BitVec 32
/-- A command word (30_encoding.md rule R120). -/
abbrev Command := BitVec 64

/-- OPEN private state of a voice (`bd.x`, `fm.x`, `env.x`, the digit state, the predictor): the spec
gives it no layout, so it is any finite list of integers, which encodes any finite plain data. -/
abbrev Extra := List Int

/-- Two like things, numbered 0 and 1. -/
structure Pair (α : Type) where
  a0 : α
  a1 : α
deriving DecidableEq, Repr

/-- Three like things, numbered 0 to 2. -/
structure Triple (α : Type) where
  a0 : α
  a1 : α
  a2 : α
deriving DecidableEq, Repr

/-- Four like things, numbered 0 to 3. -/
structure Quad (α : Type) where
  a0 : α
  a1 : α
  a2 : α
  a3 : α
deriving DecidableEq, Repr

/-- The same thing twice. -/
def Pair.same {α : Type} (x : α) : Pair α := ⟨x, x⟩
/-- The same thing three times. -/
def Triple.same {α : Type} (x : α) : Triple α := ⟨x, x, x⟩
/-- The same thing four times. -/
def Quad.same {α : Type} (x : α) : Quad α := ⟨x, x, x, x⟩

/-- Member `i` of a pair. -/
def Pair.get {α : Type} (p : Pair α) (i : Fin 2) : α :=
  match i with
  | 0 => p.a0
  | 1 => p.a1

/-- The pair with member `i` replaced. -/
def Pair.set {α : Type} (p : Pair α) (i : Fin 2) (x : α) : Pair α :=
  match i with
  | 0 => { p with a0 := x }
  | 1 => { p with a1 := x }

/-- Member `i` of a triple. -/
def Triple.get {α : Type} (p : Triple α) (i : Fin 3) : α :=
  match i with
  | 0 => p.a0
  | 1 => p.a1
  | 2 => p.a2

/-- The triple with member `i` replaced. -/
def Triple.set {α : Type} (p : Triple α) (i : Fin 3) (x : α) : Triple α :=
  match i with
  | 0 => { p with a0 := x }
  | 1 => { p with a1 := x }
  | 2 => { p with a2 := x }

/-- Member `i` of a quad. -/
def Quad.get {α : Type} (p : Quad α) (i : Fin 4) : α :=
  match i with
  | 0 => p.a0
  | 1 => p.a1
  | 2 => p.a2
  | 3 => p.a3

/-- The quad with member `i` replaced. -/
def Quad.set {α : Type} (p : Quad α) (i : Fin 4) (x : α) : Quad α :=
  match i with
  | 0 => { p with a0 := x }
  | 1 => { p with a1 := x }
  | 2 => { p with a2 := x }
  | 3 => { p with a3 := x }

end Sys2Proof
end

