-- ==== Sys2Proof/Machine/Records.lean ====
section
/-! DEFINITION. The types of the block's records and enumerations: Excitation, Svf, the eleven voice
records, the rings, a Processors channel and the oscillator (10_state.md and the voice files).
Types only; what is done with them stands in the files that import this one. -/

namespace Sys2Proof.Machine

/-- Svf output modes (30_encoding.md rule R133). -/
inductive SvfMode where
  | lp | bp | hp | peak
deriving DecidableEq, Repr

/-- Control modes (rule R132). -/
inductive ControlMode where
  | full | half
deriving DecidableEq, Repr

/-- Function codes 0 to 11, in order (rule R131). -/
inductive FunctionCode where
  | bassDrum | snareDrum | fmDrum | highHat | pulseShaper | pulseRandomizer
  | bouncingBall | miniSequencer | multistageEnvelope | lfo | numberStation | tapLfo
deriving DecidableEq, Repr

/-- Lfo shapes 0 to 4, in order (rule R134). -/
inductive LfoShape where
  | sine | triangle | square | steps | noise
deriving DecidableEq, Repr

/-- Fault causes 1 to 8, in the order of their codes and of the checks (60_exceptions.md rules R450
and R455). Code 0, NONE, is the absence of a cause. -/
inductive Cause where
  | illegalOpcode | badUnit | reservedNonzero | badIndex | badEnum | badSize | badAddress | misaligned
deriving DecidableEq, Repr

/-- The kinds of a response (rule R127). -/
inductive ResponseKind where
  | ok | fault | halted
deriving DecidableEq, Repr

/-- The one response of a command: its kind and its 32-bit value (rule R127). -/
structure Response where
  kind : ResponseKind
  value : U32
deriving DecidableEq, Repr

/-- An Excitation record (10_state.md rule R41). `counter` is the integer 0..65536 of that rule and
`done` is not stored. -/
structure Excitation where
  delay : U16
  decay : U16
  counter : Nat
  state : U32
  level : S32
deriving DecidableEq, Repr

/-- An Svf record (rule R42). -/
structure Svf where
  lp : S32
  bp : S32
  frequency : S16
  resonance : S16
  punch : U16
  mode : SvfMode
deriving DecidableEq, Repr

/-- Knobs of the BassDrum (43_voices_percussion.md rule R234). -/
structure BassKnobs where
  frequency : U16
  punch : U16
  tone : U16
  decay : U16
deriving DecidableEq, Repr

/-- Knobs of the SnareDrum (rule R239). -/
structure SnareKnobs where
  frequency : U16
  tone : U16
  snappy : U16
  decay : U16
deriving DecidableEq, Repr

/-- The record the two resonator drums share (rules R234 and R239): three Excitations, two Svfs, the
low-pass state and its derived coefficient, the knobs and the OPEN extra state. -/
structure Drum (κ : Type) where
  pulse : Triple Excitation
  res : Pair Svf
  lp : S32
  knobs : κ
  lpCoef : Int
  x : Extra
deriving DecidableEq, Repr

/-- The BassDrum record `bd`. -/
abbrev BassDrum := Drum BassKnobs
/-- The SnareDrum record `sd`. -/
abbrev SnareDrum := Drum SnareKnobs

/-- The FmDrum record `fm` (rule R243). `rc` is the recompute counter 0..3. -/
structure FmDrum where
  phase : U32
  modPhase : U32
  inc : U32
  ampEnv : Int
  indexEnv : Int
  chirpEnv : Int
  prev : S16
  rc : Fin 4
  k : Quad U16
  x : Extra
deriving DecidableEq, Repr

/-- The HighHat record `hh` (rules R249 and R250): its knobs, and its state, which is OPEN. -/
structure HighHat where
  k : Quad U16
  x : Extra
deriving DecidableEq, Repr

/-- The phase of a PulseShaper slot (44_voices_pulse.md rule R271). -/
inductive SlotPhase where
  | delay | on | gap
deriving DecidableEq, Repr

/-- One PulseShaper slot (rule R271). -/
structure PulseSlot where
  active : Bool
  phase : SlotPhase
  timer : U32
  duration : U32
  gap : U32
  remaining : U16
deriving DecidableEq, Repr

/-- The PulseShaper record `ps` (rule R271): 32 slots. -/
structure PulseShaper where
  slot : List PulseSlot
  next : Fin 32
  notch : U32
  prevHigh : Bool
  k : Quad U16
deriving DecidableEq, Repr

/-- One PulseRandomizer slot (rule R280). -/
structure RandomSlot where
  active : Bool
  timer : U32
  pulseLeft : U32
deriving DecidableEq, Repr

/-- The PulseRandomizer record `pr` (rule R280): 32 slots. -/
structure PulseRandomizer where
  slot : List RandomSlot
  next : Fin 32
  k : Quad U16
deriving DecidableEq, Repr

/-- The BouncingBall record `bb` (rule R290). `position` is in [0, 2^31 - 1] by its width; `gravity` is
derived from `k0`; `loss` is `k1` and is not stored twice. -/
structure BouncingBall where
  position : BitVec 31
  velocity : S32
  k : Quad U16
  gravity : Nat
deriving DecidableEq, Repr

/-- The MiniSequencer record `ms` (rules R300 and R301): its knobs, and its state, which is OPEN. -/
structure MiniSequencer where
  k : Quad U16
  x : Extra
deriving DecidableEq, Repr

/-- The MultistageEnvelope record `env` (45_voices_generators.md rule R310). -/
structure Envelope where
  stage : Int
  phase : U32
  value : S16
  k : Quad U16
  x : Extra
deriving DecidableEq, Repr

/-- The Lfo record `lfo` (rule R320); `pp` is the predictor's OPEN state. -/
structure Lfo where
  phase : U32
  phaseInc : U32
  shape : LfoShape
  sync : Bool
  count : U32
  noisePrev : S16
  noiseNext : S16
  pp : Extra
  k : Quad U16
  up : Int
  down : Int
deriving DecidableEq, Repr

/-- The NumberStation record `ns` (rule R335); `digit` is OPEN. -/
structure NumberStation where
  nb : Svf
  lp : Svf
  hp : Svf
  tonePhase : U32
  intfPhase : U32
  digit : Extra
  k : Quad U16
deriving DecidableEq, Repr

/-- A ring buffer (10_state.md rule R37): RING_CAPACITY cells and two indices. -/
structure Ring (α : Type) where
  cells : List α
  r : Nat
  w : Nat
deriving DecidableEq, Repr

/-- A Processors channel `P[c]` (rules R33, R35 to R37). -/
structure Processor where
  function : FunctionCode
  controlMode : ControlMode
  param : Quad U16
  inRing : Ring U8
  outRing : Ring S16
  bd : BassDrum
  sd : SnareDrum
  fm : FmDrum
  hh : HighHat
  ps : PulseShaper
  pr : PulseRandomizer
  bb : BouncingBall
  ms : MiniSequencer
  env : Envelope
  lfo : Lfo
  ns : NumberStation
deriving DecidableEq, Repr

/-- The oscillator `O` (rules R33, R38, R39). -/
structure Oscillator where
  shape : Nat
  prevShape : Nat
  firstRender : Bool
  pitch : S16
  param : Pair S16
  phase : U32
  phaseInc : U32
  strike : Bool
  union : List U8
  exc : Quad Excitation
  svf : Triple Svf
  scratch : List U8
deriving DecidableEq, Repr

/-- The two sources every voice draws from: the block's noise generator `S.rng` (40_fixedpoint.md
rule R169) and the index of the next free value (the MODEL's own, notes/assumptions/3.md). -/
structure Draws where
  rng : U32
  free : Nat
deriving DecidableEq, Repr

end Sys2Proof.Machine
end

