-- ==== Sys2Proof/Syntax.lean ====
section
/-! DEFINITION. The 34 commands of the block, one constructor per row of spec/opcode_table.json in the
table's order (30_encoding.md rule R123), with their operands as the word carries them (rule R125).
An operand a command may still reject (an index, a code, a size, an address) keeps its raw width
here: the meaning makes that check, in the order of 60_exceptions.md rule R455. -/

namespace Sys2Proof

/-- The Processors channel a `p.*` command names in UNIT (rule R122). -/
inductive Chan where
  | ch0 | ch1
deriving DecidableEq, Repr

/-- A command. Operand names: `k` instance, `sel` read select, `a` address. -/
inductive Instr where
  /-- p.init -/
  | pInit (ch : Chan)
  /-- p.set_function -/
  | pSetFunction (ch : Chan) (code : U16)
  /-- p.set_parameter -/
  | pSetParameter (ch : Chan) (index : BitVec 4) (value : U16)
  /-- p.set_control_mode -/
  | pSetControlMode (ch : Chan) (code : U16)
  /-- p.process; the control byte has three free bits (rules R126 and R130) -/
  | pProcess (ch : Chan) (ctrl : BitVec 3)
  /-- p.buffer -/
  | pBuffer (ch : Chan)
  /-- p.read -/
  | pRead (ch : Chan) (sel : BitVec 4)
  /-- o.init -/
  | oInit
  /-- o.set_shape -/
  | oSetShape (code : U16)
  /-- o.set_parameters -/
  | oSetParameters (p1 : S16) (p2 : S16)
  /-- o.set_pitch -/
  | oSetPitch (pitch : S16)
  /-- o.strike -/
  | oStrike
  /-- o.render -/
  | oRender (size : U16)
  /-- o.read -/
  | oRead (sel : BitVec 4)
  /-- e.init -/
  | eInit (k : BitVec 4)
  /-- e.set_delay -/
  | eSetDelay (k : BitVec 4) (delay : U16)
  /-- e.set_decay -/
  | eSetDecay (k : BitVec 4) (decay : U16)
  /-- e.trigger -/
  | eTrigger (k : BitVec 4) (level : S32)
  /-- e.process -/
  | eProcess (k : BitVec 4)
  /-- e.done -/
  | eDone (k : BitVec 4)
  /-- s.init -/
  | sInit (k : BitVec 4)
  /-- s.set_frequency -/
  | sSetFrequency (k : BitVec 4) (frequency : S16)
  /-- s.set_resonance -/
  | sSetResonance (k : BitVec 4) (resonance : S16)
  /-- s.set_punch -/
  | sSetPunch (k : BitVec 4) (punch : U16)
  /-- s.set_mode -/
  | sSetMode (k : BitVec 4) (code : U16)
  /-- s.process -/
  | sProcess (k : BitVec 4) (x : S16)
  /-- dac.code -/
  | dacCode (ch : BitVec 4) (value : S16)
  /-- dac.set_offset -/
  | dacSetOffset (ch : BitVec 4) (offset : S16)
  /-- m.read8 -/
  | mRead8 (a : U16)
  /-- m.write8 -/
  | mWrite8 (a : U16) (data : U8)
  /-- m.read16 -/
  | mRead16 (a : U16)
  /-- m.write16 -/
  | mWrite16 (a : U16) (data : U16)
  /-- sys.status -/
  | sysStatus (sel : BitVec 4)
  /-- sys.reset -/
  | sysReset
deriving DecidableEq, Repr

end Sys2Proof
end

