-- ==== Sys2Proof/Decode.lean ====
section
/-! DEFINITION. The command word: its fields, the decoder, and the encoder (30_encoding.md). The decoder
is total on the 2^64 words. It makes the first three checks of 60_exceptions.md rule R455, in order
(ILLEGAL_OPCODE, BAD_UNIT, RESERVED_NONZERO), and rejects by the cause's name; the checks on operand
values (BAD_INDEX and after) are made by the meaning of the command it decodes to. -/

namespace Sys2Proof

open Sys2Proof.Machine (Cause)

/-- The six fields of a command word (rule R121). -/
structure Fields where
  op : U8
  unit : BitVec 4
  sub : BitVec 4
  rsv : U16
  a : U16
  b : U16
deriving DecidableEq, Repr

/-- The fields of a word: OP[63:56], UNIT[55:52], SUB[51:48], RSV[47:32], A[31:16], B[15:0]. -/
def fieldsOf (w : Command) : Fields where
  op := w.extractLsb' 56 8
  unit := w.extractLsb' 52 4
  sub := w.extractLsb' 48 4
  rsv := w.extractLsb' 32 16
  a := w.extractLsb' 16 16
  b := w.extractLsb' 0 16

/-- The word with the given fields. -/
def wordOf (f : Fields) : Command :=
  f.op ++ f.unit ++ f.sub ++ f.rsv ++ f.a ++ f.b

/-- The units a command may name (rule R123, column UNIT). -/
inductive UnitKind where
  | channel | oscillator | system
deriving DecidableEq, Repr

/-- UNIT is allowed for the command (rule R122). -/
def UnitKind.allows (u : UnitKind) (unit : BitVec 4) : Bool :=
  match u with
  | .channel => unit == 0 || unit == 1
  | .oscillator => unit == 2
  | .system => unit == 3

/-- The channel of an allowed UNIT of a `p.*` command. -/
def chanOfUnit (unit : BitVec 4) : Chan := if unit = 0 then .ch0 else .ch1

/-- UNIT of a channel. -/
def unitOfChan (ch : Chan) : BitVec 4 :=
  match ch with
  | .ch0 => 0
  | .ch1 => 1

/-- A row of the opcode map (rule R123): the units, whether SUB is an operand, which bits of A and B
must be zero, and the command its operands make (rule R125). -/
structure OpRow where
  unit : UnitKind
  subUsed : Bool
  aZero : U16
  bZero : U16
  build : Fields → Instr

/-- The opcode map (rule R123); `none` is an OP that is not assigned. -/
def opRow (op : U8) : Option OpRow :=
  match op.toNat with
  | 0x10 => some ⟨.channel, false, 0xFFFF, 0xFFFF, fun f => .pInit (chanOfUnit f.unit)⟩
  | 0x11 => some ⟨.channel, false, 0, 0xFFFF, fun f => .pSetFunction (chanOfUnit f.unit) f.a⟩
  | 0x12 => some ⟨.channel, true, 0, 0xFFFF, fun f => .pSetParameter (chanOfUnit f.unit) f.sub f.a⟩
  | 0x13 => some ⟨.channel, false, 0, 0xFFFF, fun f => .pSetControlMode (chanOfUnit f.unit) f.a⟩
  | 0x14 => some ⟨.channel, false, 0xFFF8, 0xFFFF, fun f => .pProcess (chanOfUnit f.unit) (f.a.extractLsb' 0 3)⟩
  | 0x15 => some ⟨.channel, false, 0xFFFF, 0xFFFF, fun f => .pBuffer (chanOfUnit f.unit)⟩
  | 0x16 => some ⟨.channel, true, 0xFFFF, 0xFFFF, fun f => .pRead (chanOfUnit f.unit) f.sub⟩
  | 0x20 => some ⟨.oscillator, false, 0xFFFF, 0xFFFF, fun _ => .oInit⟩
  | 0x21 => some ⟨.oscillator, false, 0, 0xFFFF, fun f => .oSetShape f.a⟩
  | 0x22 => some ⟨.oscillator, false, 0, 0, fun f => .oSetParameters f.a f.b⟩
  | 0x23 => some ⟨.oscillator, false, 0, 0xFFFF, fun f => .oSetPitch f.a⟩
  | 0x24 => some ⟨.oscillator, false, 0xFFFF, 0xFFFF, fun _ => .oStrike⟩
  | 0x25 => some ⟨.oscillator, false, 0, 0xFFFF, fun f => .oRender f.a⟩
  | 0x26 => some ⟨.oscillator, true, 0xFFFF, 0xFFFF, fun f => .oRead f.sub⟩
  | 0x30 => some ⟨.oscillator, true, 0xFFFF, 0xFFFF, fun f => .eInit f.sub⟩
  | 0x31 => some ⟨.oscillator, true, 0, 0xFFFF, fun f => .eSetDelay f.sub f.a⟩
  | 0x32 => some ⟨.oscillator, true, 0, 0xFFFF, fun f => .eSetDecay f.sub f.a⟩
  | 0x33 => some ⟨.oscillator, true, 0, 0, fun f => .eTrigger f.sub (f.a ++ f.b)⟩
  | 0x34 => some ⟨.oscillator, true, 0xFFFF, 0xFFFF, fun f => .eProcess f.sub⟩
  | 0x35 => some ⟨.oscillator, true, 0xFFFF, 0xFFFF, fun f => .eDone f.sub⟩
  | 0x40 => some ⟨.oscillator, true, 0xFFFF, 0xFFFF, fun f => .sInit f.sub⟩
  | 0x41 => some ⟨.oscillator, true, 0, 0xFFFF, fun f => .sSetFrequency f.sub f.a⟩
  | 0x42 => some ⟨.oscillator, true, 0, 0xFFFF, fun f => .sSetResonance f.sub f.a⟩
  | 0x43 => some ⟨.oscillator, true, 0, 0xFFFF, fun f => .sSetPunch f.sub f.a⟩
  | 0x44 => some ⟨.oscillator, true, 0, 0xFFFF, fun f => .sSetMode f.sub f.a⟩
  | 0x45 => some ⟨.oscillator, true, 0, 0xFFFF, fun f => .sProcess f.sub f.a⟩
  | 0x50 => some ⟨.system, true, 0, 0xFFFF, fun f => .dacCode f.sub f.a⟩
  | 0x51 => some ⟨.system, true, 0, 0xFFFF, fun f => .dacSetOffset f.sub f.a⟩
  | 0x58 => some ⟨.system, false, 0, 0xFFFF, fun f => .mRead8 f.a⟩
  | 0x59 => some ⟨.system, false, 0, 0xFF00, fun f => .mWrite8 f.a (f.b.extractLsb' 0 8)⟩
  | 0x5A => some ⟨.system, false, 0, 0xFFFF, fun f => .mRead16 f.a⟩
  | 0x5B => some ⟨.system, false, 0, 0, fun f => .mWrite16 f.a f.b⟩
  | 0x60 => some ⟨.system, true, 0xFFFF, 0xFFFF, fun f => .sysStatus f.sub⟩
  | 0x61 => some ⟨.system, false, 0xFFFF, 0xFFFF, fun _ => .sysReset⟩
  | _ => none

/-- Some must-be-zero bit of the word is 1 (rule R126). -/
def OpRow.reservedNonzero (r : OpRow) (f : Fields) : Bool :=
  f.rsv != 0 || (!r.subUsed && f.sub != 0) || f.a &&& r.aZero != 0 || f.b &&& r.bZero != 0

/-- Decode a command word given by its fields. -/
def decodeFields (f : Fields) : Except Cause Instr :=
  match opRow f.op with
  | none => .error .illegalOpcode
  | some r =>
    if r.unit.allows f.unit = false then .error .badUnit
    else if r.reservedNonzero f = true then .error .reservedNonzero
    else .ok (r.build f)

/-- Decode a command word: the command, or the name of the cause it is illegal for (rule R128). -/
def decode (w : Command) : Except Cause Instr := decodeFields (fieldsOf w)

/-- The fields of a command's word; RSV and every field it does not use are 0 (rule R126). -/
def fieldsOfInstr (i : Instr) : Fields :=
  match i with
  | .pInit ch => ⟨0x10, unitOfChan ch, 0, 0, 0, 0⟩
  | .pSetFunction ch code => ⟨0x11, unitOfChan ch, 0, 0, code, 0⟩
  | .pSetParameter ch index value => ⟨0x12, unitOfChan ch, index, 0, value, 0⟩
  | .pSetControlMode ch code => ⟨0x13, unitOfChan ch, 0, 0, code, 0⟩
  | .pProcess ch ctrl => ⟨0x14, unitOfChan ch, 0, 0, ctrl.zeroExtend 16, 0⟩
  | .pBuffer ch => ⟨0x15, unitOfChan ch, 0, 0, 0, 0⟩
  | .pRead ch sel => ⟨0x16, unitOfChan ch, sel, 0, 0, 0⟩
  | .oInit => ⟨0x20, 2, 0, 0, 0, 0⟩
  | .oSetShape code => ⟨0x21, 2, 0, 0, code, 0⟩
  | .oSetParameters p1 p2 => ⟨0x22, 2, 0, 0, p1, p2⟩
  | .oSetPitch pitch => ⟨0x23, 2, 0, 0, pitch, 0⟩
  | .oStrike => ⟨0x24, 2, 0, 0, 0, 0⟩
  | .oRender size => ⟨0x25, 2, 0, 0, size, 0⟩
  | .oRead sel => ⟨0x26, 2, sel, 0, 0, 0⟩
  | .eInit k => ⟨0x30, 2, k, 0, 0, 0⟩
  | .eSetDelay k delay => ⟨0x31, 2, k, 0, delay, 0⟩
  | .eSetDecay k decay => ⟨0x32, 2, k, 0, decay, 0⟩
  | .eTrigger k level => ⟨0x33, 2, k, 0, level.extractLsb' 16 16, level.extractLsb' 0 16⟩
  | .eProcess k => ⟨0x34, 2, k, 0, 0, 0⟩
  | .eDone k => ⟨0x35, 2, k, 0, 0, 0⟩
  | .sInit k => ⟨0x40, 2, k, 0, 0, 0⟩
  | .sSetFrequency k frequency => ⟨0x41, 2, k, 0, frequency, 0⟩
  | .sSetResonance k resonance => ⟨0x42, 2, k, 0, resonance, 0⟩
  | .sSetPunch k punch => ⟨0x43, 2, k, 0, punch, 0⟩
  | .sSetMode k code => ⟨0x44, 2, k, 0, code, 0⟩
  | .sProcess k x => ⟨0x45, 2, k, 0, x, 0⟩
  | .dacCode ch value => ⟨0x50, 3, ch, 0, value, 0⟩
  | .dacSetOffset ch offset => ⟨0x51, 3, ch, 0, offset, 0⟩
  | .mRead8 a => ⟨0x58, 3, 0, 0, a, 0⟩
  | .mWrite8 a data => ⟨0x59, 3, 0, 0, a, data.zeroExtend 16⟩
  | .mRead16 a => ⟨0x5A, 3, 0, 0, a, 0⟩
  | .mWrite16 a data => ⟨0x5B, 3, 0, 0, a, data⟩
  | .sysStatus sel => ⟨0x60, 3, sel, 0, 0, 0⟩
  | .sysReset => ⟨0x61, 3, 0, 0, 0, 0⟩

/-- The command word of a command (rules R121 to R126). -/
def encode (i : Instr) : Command := wordOf (fieldsOfInstr i)

/-- The command the decoder reads from the low `nbits` bits of `w`, as spec/opcode_table.json numbers
them: a command is one 64-bit word, so bit 0 is bit 0 of the word. -/
def decodeTableWord (nbits w : Nat) : Option Instr :=
  match decode (BitVec.ofNat 64 (w % 2 ^ nbits)) with
  | .ok i => some i
  | .error _ => none

end Sys2Proof
end

