-- ==== Sys2Proof/Machine/Flags.lean ====
section
/-! DEFINITION. The status word `S.status` (10_state.md rule R34): its fields, fault entry's update of it
(60_exceptions.md rule R452), and the sticky ring flags (46_processors.md rule R351). The block has no
condition codes (rule R43): these are all its flag computations. -/

namespace Sys2Proof.Machine

/-- The code of a fault cause (rule R450). -/
def Cause.code (c : Cause) : Nat :=
  match c with
  | .illegalOpcode => 1
  | .badUnit => 2
  | .reservedNonzero => 3
  | .badIndex => 4
  | .badEnum => 5
  | .badSize => 6
  | .badAddress => 7
  | .misaligned => 8

/-- FAULTED, bit 0. -/
def statusFaulted (st : U32) : Bool := st.getLsbD 0

/-- FAULT_CAUSE, bits 7:4. -/
def statusCause (st : U32) : BitVec 4 := st.extractLsb' 4 4

/-- The status after fault entry: bit 0 set, bits 7:4 the cause, the rest kept (rule R452). -/
def statusOnFault (st : U32) (c : Cause) : U32 :=
  (st &&& 0xFFFFFF0E) ||| BitVec.ofNat 32 (c.code * 16 + 1)

/-- What the accesses of one command did to a channel's rings (rule R351). -/
structure RingEvents where
  inUnderrun : Bool
  inOverrun : Bool
  outUnderrun : Bool
  outOverrun : Bool
deriving DecidableEq, Repr

/-- Nothing happened. -/
def RingEvents.none : RingEvents := ⟨false, false, false, false⟩

/-- The four flags of a channel as a number, in the order of rule R34. -/
def RingEvents.bits (e : RingEvents) : Nat :=
  e.inUnderrun.toNat + 2 * e.inOverrun.toNat + 4 * e.outUnderrun.toNat + 8 * e.outOverrun.toNat

/-- The lowest status bit of a channel's flags: 8 for channel 0, 12 for channel 1 (rule R34). -/
def ringFlagBase (ch : Chan) : Nat :=
  match ch with
  | .ch0 => 8
  | .ch1 => 12

/-- The status with a channel's ring flags set where an event says so; a flag is never cleared here. -/
def statusOnRing (st : U32) (ch : Chan) (e : RingEvents) : U32 :=
  st ||| BitVec.ofNat 32 (e.bits <<< ringFlagBase ch)

end Sys2Proof.Machine
end

