-- ==== Sys2Proof/Machine/Scripts.lean ====
section
/-! DEFINITION. The forms of OPEN functions that draw noise (40_fixedpoint.md rule R169) or act on the
oscillator's primitives only by calls (47_oscillator.md rule R400). -/

namespace Sys2Proof.Machine

/-- An OPEN function's run: a result, or a call of the block and how it goes on with what the call
answers. It always ends, so the function is total (00_scope.md rule R18). -/
inductive Script (Call : Type) (Answer : Call → Type) (α : Type) where
  | result (a : α)
  | call (c : Call) (next : Answer c → Script Call Answer α)

/-- The result of a script and the state it leaves, where `perform` says what a call does. -/
def Script.run {Call : Type} {Answer : Call → Type} {α σ : Type} (perform : (c : Call) → σ → Answer c × σ) :
    Script Call Answer α → σ → α × σ
  | .result a, s => (a, s)
  | .call c next, s => Script.run perform (next (perform c s).1) (perform c s).2

/-- Every result the script can come to has the property, whatever its calls answer. -/
def Script.Always {Call : Type} {Answer : Call → Type} {α : Type} (P : α → Prop) :
    Script Call Answer α → Prop
  | .result a => P a
  | .call _ next => ∀ r, Script.Always P (next r)

/-- An OPEN function that may draw: it receives `S.rng` and returns its new value (40_fixedpoint.md
rule R169). -/
abbrev Drawing (α : Type) : Type := U32 → α × U32

/-- The calls of a renderer: the functions of 41_excitation.md rule R197 on the oscillator's four
Excitations, and those of 42_svf.md rule R210 on its three Svfs. No rule asks how often a renderer calls each
(DESIGN CHOICE for `excProcess`, notes/assumptions/27.md). -/
inductive RenderCall where
  | excInit (k : Fin 4)
  | excSetDelay (k : Fin 4) (d : U16)
  | excSetDecay (k : Fin 4) (d : U16)
  | excTrigger (k : Fin 4) (level : S32)
  | excProcess (k : Fin 4)
  | excDone (k : Fin 4)
  | svfInit (k : Fin 3)
  | svfSetFrequency (k : Fin 3) (f : S16)
  | svfSetResonance (k : Fin 3) (r : S16)
  | svfSetPunch (k : Fin 3) (p : U16)
  | svfSetMode (k : Fin 3) (m : SvfMode)
  | svfProcess (k : Fin 3) (x : S16)
deriving DecidableEq, Repr

/-- What a call answers to the renderer. -/
def RenderCall.Answer (c : RenderCall) : Type :=
  match c with
  | .excInit _ => Unit
  | .excSetDelay _ _ => Unit
  | .excSetDecay _ _ => Unit
  | .excTrigger _ _ => Unit
  | .excProcess _ => S32
  | .excDone _ => Bool
  | .svfInit _ => Unit
  | .svfSetFrequency _ _ => Unit
  | .svfSetResonance _ _ => Unit
  | .svfSetPunch _ _ => Unit
  | .svfSetMode _ _ => Unit
  | .svfProcess _ _ => S16

end Sys2Proof.Machine
end

