-- ==== Sys2Proof/Config.lean ====
section
/-! DEFINITION. The OPEN parameters (00_scope.md rules R8, R11, R18; 92_eei_decisions.md section 2): what
an implementation fixes and the spec does not, and the free values. Every operation of the model takes
its configuration as an argument. Machine/Conformance.lean says which configurations are well formed
and has the block's own, `Config.cfg`, an opaque constant.
The values after `:=` below only show there that a well-formed configuration exists (Lean asks it of an
opaque constant); nothing about `Config.cfg` can be proved from them. -/

namespace Sys2Proof.Config

open Sys2Proof.Machine

/-- Which reading of the DAC bound is in force (90_conflicts.md C3, decision D39). -/
inductive DacClamp where
  | unsigned16 | signed16
deriving DecidableEq, Repr

/-- `BD_SETUP` and `SD_SETUP` (rules R235 and R240): Excitation delays and decays, resonator modes and
punch, initial knobs and extra state. -/
structure DrumSetup (κ : Type) where
  delay : Triple U16
  decay : Triple U16
  mode : Pair SvfMode
  punch : Pair U16
  knobs : κ
  x : Extra

/-- The settings of one resonator that `BD_Apply` and `SD_Apply` recompute; `none` leaves a setting. -/
structure ResSettings where
  frequency : Option S16 := none
  resonance : Option S16 := none
  punch : Option U16 := none
  mode : Option SvfMode := none

/-- What `BD_Apply` and `SD_Apply` recompute (rules R236 and R241): the knob-dependent settings of the
Excitations and the resonators; `none` leaves a setting. -/
structure DrumSettings where
  delay : Triple (Option U16) := Triple.same none
  decay : Triple (Option U16) := Triple.same none
  res : Pair ResSettings := Pair.same {}

/-- The per-sample settings of one resonator that `BD_Tune` and `SD_Tune` give (rule R237). -/
structure ResTuning where
  frequency : S16
  punch : U16
  mode : SvfMode

/-- The OPEN functions and constants of a resonator drum (rules R235 to R237, R240 to R242), with the
arguments the rules pass. `trigger` gives, for each pulse it triggers, the level of the `Exc_Trigger`;
`apply` and `tune` give settings (notes/assumptions/10.md). -/
structure DrumOpen (κ : Type) where
  setup : DrumSetup κ
  toneCoef : U16 → Int := fun _ => 1
  apply : Drum κ → DrumSettings := fun _ => {}
  trigger : Drum κ → Drawing (Triple (Option S32) × Extra) := fun b rng => ((⟨some 32767, none, none⟩, b.x), rng)
  excite : Triple S32 → Triple Bool → Drum κ → Drawing Int := fun v _ _ rng =>
    (v.a0.toInt + v.a1.toInt + v.a2.toInt, rng)
  tune : Drum κ → Triple Bool → Drawing (Pair ResTuning × Extra) := fun b _ rng =>
    ((Pair.same ⟨0, 0, .lp⟩, b.x), rng)
  mix : Int → Pair S16 → Drum κ → Drawing Int := fun e _ _ rng => (e, rng)
  lpShift : Nat := 0

/-- What `FM_Trigger` returns (rule R246): the envelopes, the phases and the extra state. -/
structure FmRestart where
  phase : U32
  modPhase : U32
  ampEnv : Int
  indexEnv : Int
  chirpEnv : Int
  x : Extra

/-- The OPEN functions and constants of the FmDrum (rules R244 to R247). -/
structure FmOpen where
  setupK : Quad U16 := Quad.same 0
  setupX : Extra := []
  halfK2 : U16 := 0
  halfK3 : U16 := 0
  trigger : FmDrum → FmRestart := fun m => ⟨0, 0, 2, 2, 0, m.x⟩
  increment : Quad U16 → Int → S16 → Extra → U32 := fun _ chirp prev _ => BitVec.ofInt 32 (chirp + prev.toInt)
  envStep : Int → Int → Int → Quad U16 → Int × Int × Int := fun a _ c _ => (a.natAbs / 2, 0, c + 1)
  modIncrement : U32 → Quad U16 → U32 := fun i _ => i
  sample : U32 → U32 → Int → Int → Int := fun _ _ _ _ => 0

/-- The OPEN functions and constants of the HighHat (rules R249 to R251). `sample` returns a whole record,
its knobs included, as rule R251 binds it (DESIGN CHOICE, notes/assumptions/26.md). -/
structure HatOpen where
  setup : HighHat := ⟨Quad.same 0, []⟩
  halfK2 : U16 := 0
  halfK3 : U16 := 0
  sample : HighHat → U8 → Drawing (HighHat × S16) := fun h ctrl rng =>
    ((h, if ctrl.getLsbD 1 then 1 else 0), rng)

/-- The OPEN functions and constants of the PulseShaper (rules R273 and R276). The numbers of samples have
no upper bound (notes/assumptions/28.md). -/
structure ShaperOpen where
  halfK0 : U16 := 0
  halfK2 : U16 := 0
  delay : U16 → Nat := fun k => k.toNat
  duration : U16 → Nat := fun k => max 1 k.toNat
  gap : U16 → Nat := fun k => k.toNat
  repetitions : U16 → U16 := fun k => k
  notchSamples : Nat := 1

/-- The OPEN functions and constants of the PulseRandomizer (rules R282 to R284). The mean and the spread
of the delay are stored in no register, and no number of samples has an upper bound
(notes/assumptions/8.md and 28.md). -/
structure RandomizerOpen where
  halfK2 : U16 := 0
  halfK3 : U16 := 0
  mean : U16 → Nat := fun _ => 1
  spread : U16 → Nat := fun _ => 0
  pulseSamples : Nat := 2

/-- The OPEN functions and constants of the BouncingBall (rules R290, R292, R294). That they be below 2^30
names the range in which rule R294 is valid and is asked of no configuration (DESIGN CHOICE,
notes/assumptions/5.md). -/
structure BallOpen where
  halfK2 : U16 := 0
  halfK3 : U16 := 0
  gravity : U16 → Nat := fun k => k.toNat
  launchVelocity : U16 → S32 := fun _ => 0

/-- The OPEN functions and constants of the MiniSequencer (rules R300 to R302). `fill` returns sample
`i` of the block as a function of `i`, so it returns exactly one sample per control byte. -/
structure SequencerOpen where
  setup : MiniSequencer := ⟨Quad.same 0, []⟩
  halfK2 : U16 := 0
  halfK3 : U16 := 0
  fill : MiniSequencer → List U8 → Drawing (MiniSequencer × (Nat → S16)) := fun m _ rng =>
    ((m, fun _ => 0), rng)

/-- The OPEN functions and constants of the MultistageEnvelope (rules R311 to R313). -/
structure EnvelopeOpen where
  setupX : Extra := []
  halfK2 : U16 := 0
  halfK3 : U16 := 0
  step : Envelope → U8 → Envelope × S16 := fun e _ => (e, 0)

/-- The OPEN functions and constants of the Lfo (rules R321 to R326). What rule R323 asks of `slopes`
is a clause of `Params.WellFormed`; its default is the example of that rule. -/
structure LfoOpen where
  halfK2 : U16 := 32768
  rateInc : U16 → U32 := fun k => (k.zeroExtend 32) <<< 16
  slopes : U16 → Int × Int := fun b => (65535 * 65536 / (b.toNat : Int), 65535 * 65536 / (65536 - (b.toNat : Int)))
  stepShift : U16 → Fin 16 := fun _ => 0
  syncInc : Int → U16 → U32 := fun _ _ => 0
  ppInit : Extra := []
  ppPredict : Extra → U32 → Extra × Int := fun p d => (p, d.toNat)
  lutSine : List S16 := List.replicate 257 0

/-- `NS_SETUP` (rule R336): the three filters' frequencies and resonances and the digit state. -/
structure StationSetup where
  nbFrequency : S16 := 0
  nbResonance : S16 := 0
  lpFrequency : S16 := 0
  lpResonance : S16 := 0
  hpFrequency : S16 := 0
  hpResonance : S16 := 0
  digit : Extra := []

/-- The OPEN functions and constants of the NumberStation (rules R336 to R338). -/
structure StationOpen where
  setup : StationSetup := {}
  halfK2 : U16 := 0
  halfK3 : U16 := 0
  transition : Extra → U32 → Extra := fun d _ => d
  tone : NumberStation → Drawing (NumberStation × Int) := fun n rng => ((n, 0), rng)
  interference : NumberStation → Drawing (NumberStation × Int) := fun n rng => ((n, 0), rng)
  mix : Int → Int → S16 → Quad U16 → Drawing Int := fun _ _ _ _ rng => (0, rng)
  fold : Int → Quad U16 → Drawing S16 := fun _ _ rng => (0, rng)

/-- The arguments of a renderer (47_oscillator.md rule R399), but for the Excitations and the Svfs, on
which its calls act (rule R400). -/
structure RenderIn where
  phase : U32
  phaseInc : U32
  pitch : S16
  param : Pair S16
  strike : Bool
  firstRender : Bool
  union : List U8
  scratch : List U8
  sync : List U8
  size : Nat
  rng : U32

/-- What a renderer returns (rule R399), but for the Excitations and the Svfs, which are what its calls
leave; `y i` is sample `i`, so exactly `size` samples, each an s16, come of it (rule R400). -/
structure RenderOut where
  phase : U32
  union : List U8
  scratch : List U8
  rng : U32
  y : Nat → S16

/-- A renderer's run: its calls and its result. How often it calls `Exc_Process` in a sample is the
renderer's (DESIGN CHOICE, notes/assumptions/27.md). -/
abbrev Rendering : Type := Script RenderCall RenderCall.Answer RenderOut

/-- Where a number of samples or of cells, which may be 2^32 or more, goes into 32 bits: the response of
`p.read`, the timer, `duration` and `gap` of a PulseShaper slot, its notch counter, and `pulse_left` of a
PulseRandomizer slot. -/
inductive U32Place where
  | readCount | delay | duration | gap | notch | pulseLeft
deriving DecidableEq, Repr

/-- Every OPEN parameter (rule R11 and 92_eei_decisions.md section 2). -/
structure Params where
  /-- BLOCK_SIZE. -/
  blockSize : Nat := 4
  /-- RING_CAPACITY. -/
  ringCapacity : Nat := 8
  /-- NUM_SHAPES. -/
  numShapes : Nat := 2
  /-- SCRATCH_BYTES. -/
  scratchBytes : Nat := 0
  /-- STATE_UNION_BYTES. -/
  unionBytes : Nat := 0
  /-- PITCH_SMOOTH_THRESHOLD, an s16. -/
  pitchSmoothThreshold : S16 := 11520
  /-- PITCH_SMOOTH_SHIFT. -/
  pitchSmoothShift : Nat := 1
  /-- PITCH_TABLE_START, an int32. -/
  pitchTableStart : S32 := 1536
  /-- LUT_FRAC_BITS. -/
  lutFracBits : Nat := 7
  /-- INC_TABLE. -/
  incTable : List U32 := (List.range 13).map fun j => BitVec.ofNat 32 (1000 * (12 + j))
  /-- SVF_SHIFT. -/
  svfShift : Nat := 15
  /-- SvfCoef (frequency, resonance, punch, lp, bp) → (f, damp); both results are below 2^16 by type. -/
  svfCoef : S16 → S16 → U16 → S32 → S32 → U16 × U16 := fun f r _ _ _ => (f, r)
  /-- LCG_A. -/
  lcgA : U32 := 1664525
  /-- LCG_C. -/
  lcgC : U32 := 1013904223
  /-- LCG_SEED, the reset value of `S.rng`. -/
  lcgSeed : U32 := 0
  /-- INTERP824_FRAC_BITS. -/
  interp824FracBits : Nat := 16
  /-- PULSE_HIGH. -/
  pulseHigh : S16 := 32767
  /-- The magnitude the pluck transient of rule R238's scenario reaches, and the samples within which it
  does (notes/assumptions/22.md). -/
  bdRise : Nat := 30000
  bdRiseSamples : Nat := 300
  /-- BD_HALF_FREQUENCY. -/
  bdHalfFrequency : U16 := 0
  /-- BD_HALF_PUNCH. -/
  bdHalfPunch : U16 := 0
  /-- BD_HALF_TONE_BASE. -/
  bdHalfToneBase : U16 := 0
  /-- FREE VALUE: what BassDrum's `tone` holds when rule R236's sum leaves the u16 range, as a function
  of that sum (notes/assumptions/7.md). -/
  bdHalfToneOver : Nat → U16 := fun _ => 0
  /-- SD_HALF_FREQUENCY. -/
  sdHalfFrequency : U16 := 0
  /-- SD_HALF_DECAY. -/
  sdHalfDecay : U16 := 0
  bd : DrumOpen BassKnobs :=
    { setup := ⟨⟨1, 0, 0⟩, Triple.same 0, Pair.same .lp, Pair.same 0, ⟨0, 0, 0, 0⟩, []⟩ }
  sd : DrumOpen SnareKnobs :=
    { setup := ⟨⟨1, 0, 0⟩, Triple.same 0, Pair.same .lp, Pair.same 0, ⟨0, 0, 0, 0⟩, []⟩ }
  fm : FmOpen := {}
  hh : HatOpen := {}
  ps : ShaperOpen := {}
  pr : RandomizerOpen := {}
  bb : BallOpen := {}
  ms : SequencerOpen := {}
  env : EnvelopeOpen := {}
  lfo : LfoOpen := {}
  ns : StationOpen := {}
  /-- RenderShape[s]. -/
  renderShape : Nat → RenderIn → Rendering := fun _ i =>
    .result ⟨i.phase, i.union, i.scratch, i.rng, fun _ => 0⟩
  /-- ShapeUsesStrike[s]. -/
  shapeUsesStrike : Nat → Bool := fun _ => false
  /-- FREE VALUE: what 32 bits hold for a number of 2^32 or more, as a function of the place and the number
  (notes/assumptions/24.md and 28.md). -/
  over32 : U32Place → Nat → U32 := fun _ _ => 0
  /-- FREE VALUES: the n-th 32-bit value the spec leaves open (rule R161; notes/assumptions/3.md). -/
  free32 : Nat → BitVec 32 := fun _ => 0

end Sys2Proof.Config
end

