-- ==== Sys2Proof/Machine/FixedPoint.lean ====
section
/-! DEFINITION. The fixed-point helpers of 40_fixedpoint.md: clipping, table interpolation, the one-pole
step and the noise source; and the two ways a value takes a width (rules R14, R160, R161). Numbers are
mathematical integers and `v >>> k` on an integer is the flooring shift of 00_scope.md rule R15. -/

namespace Sys2Proof.Machine

open Sys2Proof.Config

/-- `clip16` (rule R163). -/
def clip16 (v : Int) : Int :=
  if v < -32768 then -32768 else if v > 32767 then 32767 else v

/-- `constrain(v, lo, hi)` (rule R164). -/
def constrain (v lo hi : Int) : Int := max lo (min hi v)

/-- `clampU16` (rule R164). -/
def clampU16 (v : Int) : Int := constrain v 0 65535

/-- `wrap_32` of an integer, as a register (rule R14). -/
def wrap32 (v : Int) : U32 := BitVec.ofInt 32 v

/-- `swrap_16` of an integer, as a register (rule R14). -/
def swrap16 (v : Int) : S16 := BitVec.ofInt 16 v

/-- A clipped value as an s16 register. -/
def sample16 (v : Int) : S16 := BitVec.ofInt 16 (clip16 v)

/-- Entry `i` of an s16 table of the lookup-table ROM (20_memory.md rule R84). -/
def tableAt (t : List S16) (i : Nat) : Int := (t.getD i 0).toInt

/-- `Interpolate88` (rule R165). -/
def interpolate88 (t : List S16) (x : U16) : Int :=
  let i := x.toNat >>> 8
  let frac : Int := (x.toNat % 256 : Nat)
  let a := tableAt t i
  let b := tableAt t (i + 1)
  a + (((b - a) * frac) >>> (8 : Nat))

/-- `Interpolate824` (rule R166) with `bits` = INTERP824_FRAC_BITS fraction bits used; the product is
exact (DEDUCED, notes/assumptions/20.md). -/
def interpolate824 (bits : Nat) (t : List S16) (p : U32) : Int :=
  let i := p.toNat >>> 24
  let frac : Int := ((p.toNat % 2 ^ 24) >>> (24 - bits) : Nat)
  let a := tableAt t i
  let b := tableAt t (i + 1)
  a + (((b - a) * frac) >>> bits)

/-- `OnePole` (rule R167); the product is exact (DEDUCED, notes/assumptions/20.md). -/
def onePole (y x k : Int) (n : Nat) : Int := y + (((x - y) * k) >>> n)

/-- `NextRandom` on the noise state: the new state, which is also the value drawn (rule R168). -/
def nextRandom (c : Params) (rng : U32) : U32 := rng * c.lcgA + c.lcgC

/-- The noise state after `n` draws (rule R168). -/
def randomRun (c : Params) (n : Nat) (rng : U32) : U32 :=
  match n with
  | 0 => rng
  | n + 1 => nextRandom c (randomRun c n rng)

/-- The function changes the noise state by draws only (rule R169). -/
def DrawsOnly {α : Type} (c : Params) (f : Drawing α) : Prop := ∀ rng, ∃ n, (f rng).2 = randomRun c n rng

/-- The s16 a draw yields: its top 16 bits (`RandomSample`, rule R168). -/
def drawnSample (drawn : U32) : S16 := drawn.extractLsb' 16 16

/-- The top 16 bits of a draw as a number, which a probability knob is compared with (rule R283). -/
def drawnChance (drawn : U32) : Nat := drawn.toNat >>> 16

/-- One step of a phase accumulator (rule R170). -/
def phaseStep (phase inc : U32) : U32 := phase + inc

/-- Store a number in 32 bits: itself where it fits, else the free value of that number there (rule R161;
notes/assumptions/24.md and 28.md). -/
def fit32 (c : Params) (place : U32Place) (n : Nat) : U32 :=
  if n < 4294967296 then BitVec.ofNat 32 n else c.over32 place n

/-- Store an integer in an s32: itself where it fits, else a free value (rule R161). -/
def storeS32 (c : Params) (v : Int) (free : Nat) : S32 × Nat :=
  if -2147483648 ≤ v ∧ v < 2147483648 then (BitVec.ofInt 32 v, free) else (c.free32 free, free + 1)

end Sys2Proof.Machine
end

