-- ==== Sys2Proof/Machine/Primitives.lean ====
section
/-! DEFINITION. The functions of one Excitation record (41_excitation.md) and of one Svf record
(42_svf.md). The `e.*` and `s.*` commands and the voices that own such records all call these. -/

namespace Sys2Proof.Machine

open Sys2Proof.Config

/-- `Exc_Init` (rule R191). -/
def excInit : Excitation := ⟨0, 4093, 0, 0, 0⟩

/-- `Exc_SetDelay` (rule R192): a running countdown is not touched. -/
def excSetDelay (e : Excitation) (d : U16) : Excitation := { e with delay := d }

/-- `Exc_SetDecay` (rule R193). -/
def excSetDecay (e : Excitation) (d : U16) : Excitation := { e with decay := d }

/-- `Exc_Trigger` (rule R194). -/
def excTrigger (e : Excitation) (level : S32) : Excitation :=
  { e with level := level, counter := e.delay.toNat + 1 }

/-- The setters of the settings given (rules R192 and R193). -/
def excApply (e : Excitation) (delay decay : Option U16) : Excitation :=
  excSetDecay (excSetDelay e (delay.getD e.delay)) (decay.getD e.decay)

/-- `Exc_Done` (rule R196). -/
def excDone (e : Excitation) : Bool := e.counter == 0

/-- The decayed state of rule R195, before any injection. -/
def excDecayed (e : Excitation) : Nat := (e.state.toNat * e.decay.toNat) >>> 12

/-- The new state of rule R195 as an integer: the decayed state, and `abs(level)` added on the sample
on which the countdown reaches zero. -/
def excNextState (e : Excitation) : Nat :=
  if e.counter = 1 then excDecayed e + e.level.toInt.natAbs else excDecayed e

/-- The validity range of rule R200. -/
def excInRange (e : Excitation) : Bool :=
  decide (e.state.toNat * e.decay.toNat < 2 ^ 31 ∧
    e.state.toNat + e.level.toInt.natAbs < 2 ^ 31 ∧
    e.level.toInt ≠ -2 ^ 31)

/-- `Exc_Process` (rule R195): the new record, the value, and the next free index. In the range of rule
R200 the state is that of the rule, and so is the value where it is an s32 (notes/assumptions/4.md);
outside it the state and the value are free. The countdown is as the rule says either way. -/
def excProcess (c : Params) (e : Excitation) (free : Nat) : Excitation × S32 × Nat :=
  if excInRange e then
    let s := excNextState e
    let value : Int := if e.level.toInt < 0 then -(s : Int) else s
    let (value32, free') := storeS32 c value free
    ({ e with counter := e.counter - 1, state := BitVec.ofNat 32 s }, value32, free')
  else
    ({ e with counter := e.counter - 1, state := c.free32 free }, c.free32 (free + 1), free + 2)

/-- `Svf_Init` (rule R211). -/
def svfInit : Svf := ⟨0, 0, 0, 0, 0, .lp⟩

/-- `Svf_SetFrequency` (rule R212). -/
def svfSetFrequency (v : Svf) (f : S16) : Svf := { v with frequency := f }

/-- `Svf_SetResonance` (rule R213). -/
def svfSetResonance (v : Svf) (r : S16) : Svf := { v with resonance := r }

/-- `Svf_SetPunch` (rule R214). -/
def svfSetPunch (v : Svf) (p : U16) : Svf := { v with punch := p }

/-- `Svf_SetMode` (rule R215): no integrator is touched. -/
def svfSetMode (v : Svf) (m : SvfMode) : Svf := { v with mode := m }

/-- The setters of the settings given (rules R212 to R215). -/
def svfApply (v : Svf) (t : ResSettings) : Svf :=
  svfSetMode
    (svfSetPunch
      (svfSetResonance (svfSetFrequency v (t.frequency.getD v.frequency)) (t.resonance.getD v.resonance))
      (t.punch.getD v.punch))
    (t.mode.getD v.mode)

/-- The setters of a voice's per-sample tuning (43_voices_percussion.md rule R237). -/
def svfTune (v : Svf) (t : ResTuning) : Svf := svfSetMode (svfSetPunch (svfSetFrequency v t.frequency) t.punch) t.mode

/-- The three stages of rule R216 on integers: high-pass, band-pass, low-pass. -/
def svfStages (shift : Nat) (f damp x lp bp : Int) : Int × Int × Int :=
  let hp := clip16 (x - lp - ((damp * bp) >>> shift))
  let bp' := clip16 (bp + ((f * hp) >>> shift))
  let lp' := clip16 (lp + ((f * bp') >>> shift))
  (hp, bp', lp')

/-- The output tap of rule R216. -/
def svfTap (m : SvfMode) (hp bp lp : Int) : Int :=
  match m with
  | .lp => lp
  | .bp => bp
  | .hp => hp
  | .peak => clip16 (lp - hp)

/-- `Svf_Process` (rule R216) on an input integer. -/
def svfProcess (c : Params) (v : Svf) (x : Int) : Svf × S16 :=
  let (f, damp) := c.svfCoef v.frequency v.resonance v.punch v.lp v.bp
  let (hp, bp, lp) := svfStages c.svfShift f.toNat damp.toNat x v.lp.toInt v.bp.toInt
  ({ v with bp := BitVec.ofInt 32 bp, lp := BitVec.ofInt 32 lp }, BitVec.ofInt 16 (svfTap v.mode hp bp lp))

end Sys2Proof.Machine
end

