-- ==== Sys2Proof/Machine/VoicesPercussion.lean ====
section
/-! DEFINITION. The common voice contract and the percussion voices: BassDrum, SnareDrum, FmDrum, HighHat
(43_voices_percussion.md). What the spec leaves OPEN is called from the configuration. -/

namespace Sys2Proof.Machine

open Sys2Proof.Config

/-- The control byte's RISING bit, a voice's trigger (rule R231). -/
def rising (ctrl : U8) : Bool := ctrl.getLsbD 1

/-- The knob map of rule R232: FULL takes the four registers, HALF the first two and two constants. -/
def knobs4 (mode : ControlMode) (param : Quad U16) (half2 half3 : U16) : Quad U16 :=
  match mode with
  | .full => param
  | .half => ⟨param.a0, param.a1, half2, half3⟩

/-- A voice's per-sample function over the control bytes of a block, in order: the end state and one
sample per control byte (rules R230 and R231). -/
def renderBlock {σ : Type} (f : σ → U8 → σ × S16) (s : σ) (ctrl : List U8) : σ × List S16 :=
  match ctrl with
  | [] => (s, [])
  | b :: rest =>
    let (s1, y) := f s b
    let (s2, ys) := renderBlock f s1 rest
    (s2, y :: ys)

/-! The resonator drums. -/

/-- `Init_BD` and `Init_SD` (rules R235 and R240). -/
def drumInit {κ : Type} (o : DrumOpen κ) (tone : κ → U16) : Drum κ :=
  let pulse (delay decay : U16) : Excitation := excSetDecay (excSetDelay excInit delay) decay
  let res (mode : SvfMode) (punch : U16) : Svf := svfSetPunch (svfSetMode svfInit mode) punch
  { pulse := ⟨pulse o.setup.delay.a0 o.setup.decay.a0, pulse o.setup.delay.a1 o.setup.decay.a1,
      pulse o.setup.delay.a2 o.setup.decay.a2⟩
    res := ⟨res o.setup.mode.a0 o.setup.punch.a0, res o.setup.mode.a1 o.setup.punch.a1⟩
    lp := 0
    knobs := o.setup.knobs
    lpCoef := o.toneCoef (tone o.setup.knobs)
    x := o.setup.x }

/-- The end of a drum's configure: new knobs, `lp_coef` from the tone, then `BD_Apply` or `SD_Apply`
(rules R236 and R241). Only knobs and values derived from knobs change (rule R232). -/
def drumConfigure {κ : Type} (o : DrumOpen κ) (tone : κ → U16) (d : Drum κ) (knobs : κ) : Drum κ :=
  let d1 := { d with knobs := knobs, lpCoef := o.toneCoef (tone knobs) }
  let t := o.apply d1
  { d1 with
    pulse := ⟨excApply d1.pulse.a0 t.delay.a0 t.decay.a0, excApply d1.pulse.a1 t.delay.a1 t.decay.a1,
      excApply d1.pulse.a2 t.delay.a2 t.decay.a2⟩
    res := ⟨svfApply d1.res.a0 t.res.a0, svfApply d1.res.a1 t.res.a1⟩ }

/-- `Exc_Trigger` where the drum's trigger gives a level. -/
def excTriggerIf (e : Excitation) (level : Option S32) : Excitation :=
  match level with
  | none => e
  | some l => excTrigger e l

/-- `PSS_BD` and `PSS_SD` (rules R237 and R242), step by step. -/
def drumSample {κ : Type} (c : Params) (o : DrumOpen κ) (d : Drum κ) (ctrl : U8) (s : Draws) :
    Drum κ × S16 × Draws :=
  let (d1, rng1) :=
    if rising ctrl then
      let ((levels, x), rng) := o.trigger d s.rng
      ({ d with
          pulse := ⟨excTriggerIf d.pulse.a0 levels.a0, excTriggerIf d.pulse.a1 levels.a1,
            excTriggerIf d.pulse.a2 levels.a2⟩
          x := x }, rng)
    else (d, s.rng)
  let (e0, v0, f0) := excProcess c d1.pulse.a0 s.free
  let (e1, v1, f1) := excProcess c d1.pulse.a1 f0
  let (e2, v2, f2) := excProcess c d1.pulse.a2 f1
  let d2 := { d1 with pulse := ⟨e0, e1, e2⟩ }
  let done : Triple Bool := ⟨excDone e0, excDone e1, excDone e2⟩
  let (e, rng2) := o.excite ⟨v0, v1, v2⟩ done d2 rng1
  let ((tuning, x), rng3) := o.tune d2 done rng2
  let d3 := { d2 with
    res := ⟨svfTune d2.res.a0 tuning.a0, svfTune d2.res.a1 tuning.a1⟩
    x := x }
  let (s0, r0) := svfProcess c d3.res.a0 (clip16 e)
  let (s1, r1) := svfProcess c d3.res.a1 (clip16 e)
  let d4 := { d3 with res := ⟨s0, s1⟩ }
  let (m, rng4) := o.mix e ⟨r0, r1⟩ d4 rng3
  let (lp, f3) := storeS32 c (onePole d4.lp.toInt m d4.lpCoef o.lpShift) f2
  ({ d4 with lp := lp }, sample16 lp.toInt, ⟨rng4, f3⟩)

/-- `BD_HALF_TONE_BASE + (param[0] >> 1)` as the u16 knob (rule R236): the sum where it fits, else the
free value of that sum (notes/assumptions/7.md). -/
def bassHalfTone (c : Params) (p0 : U16) : U16 :=
  let sum := c.bdHalfToneBase.toNat + (p0.toNat >>> 1)
  if sum < 65536 then BitVec.ofNat 16 sum else c.bdHalfToneOver sum

/-- `Init_BD` (rule R235). -/
def bassInit (c : Params) : BassDrum := drumInit c.bd BassKnobs.tone

/-- `Configure_BD` (rule R236). -/
def bassConfigure (c : Params) (d : BassDrum) (param : Quad U16) (mode : ControlMode) : BassDrum :=
  drumConfigure c.bd BassKnobs.tone d
    (match mode with
     | .full => ⟨param.a0, param.a1, param.a2, param.a3⟩
     | .half => ⟨c.bdHalfFrequency, c.bdHalfPunch, bassHalfTone c param.a0, param.a1⟩)

/-- `PSS_BD` (rule R237). -/
def bassSample (c : Params) (d : BassDrum) (ctrl : U8) (s : Draws) : BassDrum × S16 × Draws :=
  drumSample c c.bd d ctrl s

/-- `Init_SD` (rule R240). -/
def snareInit (c : Params) : SnareDrum := drumInit c.sd SnareKnobs.tone

/-- `Configure_SD` (rule R241). -/
def snareConfigure (c : Params) (d : SnareDrum) (param : Quad U16) (mode : ControlMode) : SnareDrum :=
  drumConfigure c.sd SnareKnobs.tone d
    (match mode with
     | .full => ⟨param.a0, param.a1, param.a2, param.a3⟩
     | .half => ⟨c.sdHalfFrequency, param.a0, param.a1, c.sdHalfDecay⟩)

/-- `PSS_SD` (rule R242). -/
def snareSample (c : Params) (d : SnareDrum) (ctrl : U8) (s : Draws) : SnareDrum × S16 × Draws :=
  drumSample c c.sd d ctrl s

/-! FmDrum. -/

/-- `Init_FM` (rule R244). -/
def fmInit (c : Params) : FmDrum :=
  { phase := 0, modPhase := 0, inc := 0, ampEnv := 0, indexEnv := 0, chirpEnv := 0, prev := 0, rc := 0
    k := c.fm.setupK, x := c.fm.setupX }

/-- `Configure_FM` (rule R245). -/
def fmConfigure (c : Params) (m : FmDrum) (param : Quad U16) (mode : ControlMode) : FmDrum :=
  { m with k := knobs4 mode param c.fm.halfK2 c.fm.halfK3 }

/-- The trigger of rule R246. -/
def fmTriggered (c : Params) (m : FmDrum) : FmDrum :=
  let t := c.fm.trigger m
  { m with phase := t.phase, modPhase := t.modPhase, ampEnv := t.ampEnv, indexEnv := t.indexEnv,
           chirpEnv := t.chirpEnv, x := t.x }

/-- One pass of the loop of rule R246. The increment is recomputed on the samples with `rc = 0`
(rule R248). -/
def fmSample (c : Params) (m : FmDrum) (ctrl : U8) : FmDrum × S16 :=
  let m1 := if rising ctrl then fmTriggered c m else m
  let m2 := if m1.rc = 0 then { m1 with inc := c.fm.increment m1.k m1.chirpEnv m1.prev m1.x } else m1
  let (amp, index, chirp) := c.fm.envStep m2.ampEnv m2.indexEnv m2.chirpEnv m2.k
  let modPhase := phaseStep m2.modPhase (c.fm.modIncrement m2.inc m2.k)
  let phase := phaseStep m2.phase m2.inc
  let y := sample16 (c.fm.sample phase modPhase amp index)
  ({ m2 with rc := m2.rc + 1, ampEnv := amp, indexEnv := index, chirpEnv := chirp, modPhase := modPhase,
             phase := phase, prev := y }, y)

/-- `Fill_FM` (rule R246). -/
def fmFill (c : Params) (m : FmDrum) (ctrl : List U8) (s : Draws) : FmDrum × List S16 × Draws :=
  let (m', ys) := renderBlock (fmSample c) m ctrl
  (m', ys, s)

/-! HighHat. -/

/-- `Init_HH` (rule R249). -/
def hatInit (c : Params) : HighHat := c.hh.setup

/-- `Configure_HH` (rule R250). -/
def hatConfigure (c : Params) (h : HighHat) (param : Quad U16) (mode : ControlMode) : HighHat :=
  { h with k := knobs4 mode param c.hh.halfK2 c.hh.halfK3 }

/-- `PSS_HH` (rule R251). -/
def hatSample (c : Params) (h : HighHat) (ctrl : U8) (s : Draws) : HighHat × S16 × Draws :=
  let ((h', y), rng) := c.hh.sample h ctrl s.rng
  (h', y, { s with rng := rng })

end Sys2Proof.Machine
end

