-- ==== Sys2Proof/Machine/VoicesPulse.lean ====
section
/-! DEFINITION. The pulse and control voices: PulseShaper, PulseRandomizer, BouncingBall, MiniSequencer
(44_voices_pulse.md). -/

namespace Sys2Proof.Machine

open Sys2Proof.Config

/-- The output level of a gate voice (rule R270). -/
def gateLevel (c : Params) (high : Bool) : S16 := if high then c.pulseHigh else 0

/-- The search of rule R274: the first slot number in `next, next+1, …, next+31` (mod 32) whose slot is
not active. -/
def findIdle (active : Nat → Bool) (next : Fin 32) : Option (Fin 32) :=
  ((List.finRange 32).map fun j => next + j).find? fun s => !active s.val

/-! PulseShaper. -/

/-- An idle slot, as `Init_PS` leaves it (rule R272). -/
def pulseSlotInit : PulseSlot := ⟨false, .delay, 0, 0, 0, 0⟩

/-- `Init_PS` (rule R272). -/
def shaperInit : PulseShaper :=
  { slot := List.replicate 32 pulseSlotInit, next := 0, notch := 0, prevHigh := false, k := Quad.same 0 }

/-- `Configure_PS` (rule R273): only the knobs change. -/
def shaperConfigure (c : Params) (p : PulseShaper) (param : Quad U16) (mode : ControlMode) : PulseShaper :=
  { p with k :=
      match mode with
      | .full => param
      | .half => ⟨c.ps.halfK0, param.a0, c.ps.halfK2, param.a1⟩ }

/-- Allocation on a trigger (rule R274). -/
def shaperAllocate (c : Params) (p : PulseShaper) : PulseShaper :=
  match findIdle (fun s => (p.slot.getD s pulseSlotInit).active) p.next with
  | none => p
  | some s =>
    { p with
      slot := p.slot.set s.val
        ⟨true, .delay, fit32 c .delay (c.ps.delay p.k.a0), fit32 c .duration (c.ps.duration p.k.a1),
          fit32 c .gap (c.ps.gap p.k.a2), c.ps.repetitions p.k.a3⟩
      next := s + 1 }

/-- The loop of rule R275, which ends phases of length 0 until one that lasts; the second result says
whether a window started. Each pass consumes one of `fuel`; `pulseSlotFuel` passes always suffice. -/
def pulseSlotLoop (fuel : Nat) (s : PulseSlot) (started : Bool) : PulseSlot × Bool :=
  match fuel with
  | 0 => (s, started)
  | fuel + 1 =>
    if s.timer ≠ 0 then (s, started)
    else
      match s.phase with
      | .delay => pulseSlotLoop fuel { s with phase := .on, timer := s.duration } true
      | .on =>
        if s.remaining = 0 then ({ s with active := false }, started)
        else pulseSlotLoop fuel { s with remaining := s.remaining - 1, phase := .gap, timer := s.gap } started
      | .gap => pulseSlotLoop fuel { s with phase := .on, timer := s.duration } true

/-- Passes that suffice: a repetition takes two, and there is at most one delay and one last pass. -/
def pulseSlotFuel (s : PulseSlot) : Nat := 2 * s.remaining.toNat + 3

/-- The slot step of rule R275 on an active slot: the slot, whether it is ON, whether a window started. -/
def pulseSlotStep (s : PulseSlot) : PulseSlot × Bool × Bool :=
  let (s1, started) := pulseSlotLoop (pulseSlotFuel s) s false
  let on := s1.active && decide (s1.phase = .on)
  (if s1.active then { s1 with timer := s1.timer - 1 } else s1, on, started)

/-- Every active slot stepped in index order; the slots, the OR of ON and the OR of started
(rule R276). -/
def pulseSlotsStep (slots : List PulseSlot) : List PulseSlot × Bool × Bool :=
  match slots with
  | [] => ([], false, false)
  | s :: rest =>
    let (rest', on, st) := pulseSlotsStep rest
    if s.active then
      let (s', on', st') := pulseSlotStep s
      (s' :: rest', on' || on, st' || st)
    else (s :: rest', on, st)

/-- One pass of the loop of rule R276. -/
def shaperSample (c : Params) (p : PulseShaper) (ctrl : U8) : PulseShaper × S16 :=
  let p1 := if rising ctrl then shaperAllocate c p else p
  let (slots, combined, anyStart) := pulseSlotsStep p1.slot
  let notch := if anyStart && p1.prevHigh then fit32 c .notch c.ps.notchSamples else p1.notch
  let high := if notch ≠ 0 then false else combined
  let notch' := if notch ≠ 0 then notch - 1 else notch
  ({ p1 with slot := slots, notch := notch', prevHigh := high }, gateLevel c high)

/-- `Fill_PS` (rule R276). -/
def shaperFill (c : Params) (p : PulseShaper) (ctrl : List U8) (s : Draws) : PulseShaper × List S16 × Draws :=
  let (p', ys) := renderBlock (shaperSample c) p ctrl
  (p', ys, s)

/-! PulseRandomizer. -/

/-- An idle slot, as `Init_PR` leaves it (rule R281). -/
def randomSlotInit : RandomSlot := ⟨false, 0, 0⟩

/-- `Init_PR` (rule R281). -/
def randomizerInit : PulseRandomizer :=
  { slot := List.replicate 32 randomSlotInit, next := 0, k := Quad.same 0 }

/-- `Configure_PR` (rule R282). -/
def randomizerConfigure (c : Params) (p : PulseRandomizer) (param : Quad U16) (mode : ControlMode) :
    PulseRandomizer :=
  { p with k := knobs4 mode param c.pr.halfK2 c.pr.halfK3 }

/-- `Chance(p)` (rule R283), one draw. -/
def chance (c : Params) (p : U16) (s : Draws) : Bool × Draws :=
  let drawn := nextRandom c s.rng
  (decide (drawnChance drawn < p.toNat), { s with rng := drawn })

/-- `max(1, mean + (sample × spread >> 15))`, the delay of rule R283 as an integer, the product exact
(DEDUCED, notes/assumptions/20.md). -/
def repeatDelayValue (mean spread : Nat) (sample : S16) : Int :=
  max 1 ((mean : Int) + ((sample.toInt * (spread : Int)) >>> (15 : Nat)))

/-- `RepeatDelay()` (rule R283), one draw. A delay above the u32 timer is a free value of at least 1
(notes/assumptions/8.md). -/
def repeatDelay (c : Params) (k : Quad U16) (s : Draws) : U32 × Draws :=
  let drawn := nextRandom c s.rng
  let v := repeatDelayValue (c.pr.mean k.a2) (c.pr.spread k.a3) (drawnSample drawn)
  if v < 4294967296 then (BitVec.ofInt 32 v, { s with rng := drawn })
  else
    (if c.free32 s.free = 0 then 1 else c.free32 s.free, ⟨drawn, s.free + 1⟩)

/-- `if Chance(k1) then RepeatDelay() else 0`: the timer of the next repeat (rules R284 and R285). -/
def nextRepeat (c : Params) (k : Quad U16) (s : Draws) : U32 × Draws :=
  let (again, s1) := chance c k.a1 s
  if again then repeatDelay c k s1 else (0, s1)

/-- The trigger of rule R284. -/
def randomizerTrigger (c : Params) (p : PulseRandomizer) (s : Draws) : PulseRandomizer × Draws :=
  let (accepted, s1) := chance c p.k.a0 s
  if accepted then
    match findIdle (fun n => (p.slot.getD n randomSlotInit).active) p.next with
    | none => (p, s1)
    | some n =>
      let (timer, s2) := nextRepeat c p.k s1
      ({ p with slot := p.slot.set n.val ⟨true, timer, fit32 c .pulseLeft c.pr.pulseSamples⟩, next := n + 1 }, s2)
  else (p, s1)

/-- The slot step of rule R285 on an active slot: the slot, whether it is on, and the draws. -/
def randomSlotStep (c : Params) (k : Quad U16) (r : RandomSlot) (s : Draws) : RandomSlot × Bool × Draws :=
  let on := decide (r.pulseLeft ≠ 0)
  let r1 : RandomSlot := if on then { r with pulseLeft := r.pulseLeft - 1 } else r
  if r1.timer ≠ 0 then
    let r2 : RandomSlot := { r1 with timer := r1.timer - 1 }
    if r2.timer = 0 then
      let (timer, s') := nextRepeat c k s
      ({ r2 with pulseLeft := fit32 c .pulseLeft c.pr.pulseSamples, timer := timer }, on, s')
    else (r2, on, s)
  else if r1.pulseLeft = 0 then ({ r1 with active := false }, on, s)
  else (r1, on, s)

/-- Every active slot stepped in index order, drawing in that order (rule R286). -/
def randomSlotsStep (c : Params) (k : Quad U16) (slots : List RandomSlot) (s : Draws) :
    List RandomSlot × Bool × Draws :=
  match slots with
  | [] => ([], false, s)
  | r :: rest =>
    let (r', on, s1) := if r.active then randomSlotStep c k r s else (r, false, s)
    let (rest', on', s2) := randomSlotsStep c k rest s1
    (r' :: rest', on || on', s2)

/-- One sample of `Fill_PR` (rule R286). -/
def randomizerSample (c : Params) (ps : PulseRandomizer × Draws) (ctrl : U8) :
    (PulseRandomizer × Draws) × S16 :=
  let (p, s) := ps
  let (p1, s1) := if rising ctrl then randomizerTrigger c p s else (p, s)
  let (slots, on, s2) := randomSlotsStep c p1.k p1.slot s1
  (({ p1 with slot := slots }, s2), gateLevel c on)

/-- `Fill_PR` (rule R286). -/
def randomizerFill (c : Params) (p : PulseRandomizer) (ctrl : List U8) (s : Draws) :
    PulseRandomizer × List S16 × Draws :=
  let ((p', s'), ys) := renderBlock (randomizerSample c) (p, s) ctrl
  (p', ys, s')

/-! BouncingBall. -/

/-- BB_MAX (rule R290). -/
def ballMax : Int := 2147483647

/-- `Init_BB` (rule R291). -/
def ballInit (c : Params) : BouncingBall :=
  { position := 0, velocity := 0, k := Quad.same 0, gravity := c.bb.gravity 0 }

/-- `Configure_BB` (rule R292). -/
def ballConfigure (c : Params) (b : BouncingBall) (param : Quad U16) (mode : ControlMode) : BouncingBall :=
  let k := knobs4 mode param c.bb.halfK2 c.bb.halfK3
  { b with k := k, gravity := c.bb.gravity k.a0 }

/-- `Bounce(v)` for a loss (rule R293). -/
def bounce (loss : U16) (v : Int) : Int := -((v * (65536 - (loss.toNat : Int))) >>> (16 : Nat))

/-- Position and velocity after a step that would reach `p` at velocity `v` (rule R294): bounced at the
floor and at the ceiling. -/
def ballMove (loss : U16) (p v : Int) : Int × Int :=
  if p < 0 then (0, bounce loss v)
  else if p > ballMax then (ballMax, bounce loss v)
  else (p, v)

/-- The step of rule R294 on a sample without a trigger. While the magnitude of the new velocity stays
below 2^31 it is as the rule says; beyond that the velocity is a free value, and the position is
computed from one (notes/assumptions/5.md). -/
def ballStep (c : Params) (b : BouncingBall) (free : Nat) : BouncingBall × Nat :=
  let v := b.velocity.toInt - (b.gravity : Int)
  if -2147483648 < v ∧ v < 2147483648 then
    let (p, v') := ballMove b.k.a1 ((b.position.toNat : Int) + v) v
    ({ b with position := BitVec.ofInt 31 p, velocity := BitVec.ofInt 32 v' }, free)
  else
    let v := (c.free32 free).toInt
    let (p, _) := ballMove b.k.a1 ((b.position.toNat : Int) + v) v
    ({ b with position := BitVec.ofInt 31 p, velocity := c.free32 (free + 1) }, free + 2)

/-- The launch of rule R294. -/
def ballLaunch (c : Params) (b : BouncingBall) : BouncingBall :=
  { b with position := BitVec.ofNat 31 (b.k.a2.toNat <<< 15), velocity := c.bb.launchVelocity b.k.a3 }

/-- One pass of the loop of rule R294. -/
def ballSample (c : Params) (bf : BouncingBall × Nat) (ctrl : U8) : (BouncingBall × Nat) × S16 :=
  let (b, free) := bf
  let (b', free') := if rising ctrl then (ballLaunch c b, free) else ballStep c b free
  ((b', free'), BitVec.ofNat 16 (b'.position.toNat >>> 16))

/-- `Fill_BB` (rule R294); the noise state is unchanged. -/
def ballFill (c : Params) (b : BouncingBall) (ctrl : List U8) (s : Draws) : BouncingBall × List S16 × Draws :=
  let ((b', free), ys) := renderBlock (ballSample c) (b, s.free) ctrl
  (b', ys, { s with free := free })

/-! MiniSequencer. -/

/-- `Init_MS` (rule R300). -/
def sequencerInit (c : Params) : MiniSequencer := c.ms.setup

/-- `Configure_MS` (rule R301). -/
def sequencerConfigure (c : Params) (m : MiniSequencer) (param : Quad U16) (mode : ControlMode) :
    MiniSequencer :=
  { m with k := knobs4 mode param c.ms.halfK2 c.ms.halfK3 }

/-- `Fill_MS` (rule R302). -/
def sequencerFill (c : Params) (m : MiniSequencer) (ctrl : List U8) (s : Draws) :
    MiniSequencer × List S16 × Draws :=
  let ((m', y), rng) := c.ms.fill m ctrl s.rng
  (m', (List.range ctrl.length).map y, { s with rng := rng })

end Sys2Proof.Machine
end

