-- ==== Sys2Proof/Machine/VoicesGenerators.lean ====
section
/-! DEFINITION. The generator voices: MultistageEnvelope, Lfo (functions LFO and TAP_LFO), NumberStation
(45_voices_generators.md). -/

namespace Sys2Proof.Machine

open Sys2Proof.Config

/-! MultistageEnvelope. -/

/-- `Init_ENV` (rule R311). -/
def envelopeInit (c : Params) : Envelope :=
  { stage := 0, phase := 0, value := 0, k := Quad.same 0, x := c.env.setupX }

/-- `Configure_ENV` (rule R312). -/
def envelopeConfigure (c : Params) (e : Envelope) (param : Quad U16) (mode : ControlMode) : Envelope :=
  { e with k := knobs4 mode param c.env.halfK2 c.env.halfK3 }

/-- `Fill_ENV` (rule R313). -/
def envelopeFill (c : Params) (e : Envelope) (ctrl : List U8) (s : Draws) : Envelope × List S16 × Draws :=
  let (e', ys) := renderBlock c.env.step e ctrl
  (e', ys, s)

/-! Lfo. -/

/-- `Init_LFO` (rule R321). -/
def lfoInit (c : Params) : Lfo :=
  { phase := 0, phaseInc := 0, shape := .sine, sync := false, count := 0, noisePrev := 0, noiseNext := 0
    pp := c.lfo.ppInit, k := Quad.same 0, up := 0, down := 0 }

/-- The shape of a code 0 to 4 (30_encoding.md rule R134). -/
def lfoShapeOf (code : Nat) : LfoShape :=
  match code with
  | 0 => .sine
  | 1 => .triangle
  | 2 => .square
  | 3 => .steps
  | _ => .noise

/-- The shape the knob selects: five equal bands (rule R322). -/
def lfoShapeOfKnob (k1 : U16) : LfoShape := lfoShapeOf ((k1.toNat * 5) >>> 16)

/-- `Configure_LFO` (rule R322). -/
def lfoConfigure (c : Params) (l : Lfo) (param : Quad U16) (mode : ControlMode) : Lfo :=
  let k := knobs4 mode param c.lfo.halfK2 65535
  let (up, down) := c.lfo.slopes k.a2
  { l with
    k := k
    shape := lfoShapeOfKnob k.a1
    up := up
    down := down
    phaseInc := if l.sync then l.phaseInc else c.lfo.rateInc k.a0 }

/-- The end points and the noise state after the wrap rule of the NOISE row (rule R323): one draw per
phase wrap of a NOISE Lfo, none otherwise. -/
def lfoNoise (c : Params) (l : Lfo) (wrapped : Bool) (s : Draws) : Lfo × Draws :=
  if l.shape = .noise ∧ wrapped = true then
    let drawn := nextRandom c s.rng
    ({ l with noisePrev := l.noiseNext, noiseNext := drawnSample drawn }, { s with rng := drawn })
  else (l, s)

/-- The attack of the TRIANGLE row of rule R323 before its narrowing, for `h < b`. -/
def triangleAttack (up : Int) (h : Nat) : Int := (-32768 : Int) + (((h : Int) * up) >>> (16 : Nat))

/-- The decay of the TRIANGLE row before its narrowing, for `b ≤ h`. -/
def triangleDecay (down : Int) (b h : Nat) : Int := (32767 : Int) - ((((h : Int) - b) * down) >>> (16 : Nat))

/-- The waveform of rule R323 as an integer, by row of its table; every product is exact (DEDUCED,
notes/assumptions/20.md). -/
def lfoWaveValue (c : Params) (l : Lfo) : Int :=
  let h : Nat := l.phase.toNat >>> 16
  let b : Nat := l.k.a2.toNat
  match l.shape with
  | .sine => interpolate824 c.interp824FracBits c.lfo.lutSine l.phase
  | .triangle =>
    if h < b then clip16 (triangleAttack l.up h) else clip16 (triangleDecay l.down b h)
  | .square => if h < b then 32767 else -32768
  | .steps =>
    let s := (c.lfo.stepShift l.k.a2).val
    (swrap16 ((((h >>> s) <<< s : Nat) : Int) - 32768)).toInt
  | .noise => l.noisePrev.toInt + (((l.noiseNext.toInt - l.noisePrev.toInt) * (h : Int)) >>> (16 : Nat))

/-- `LfoWave` (rule R323). -/
def lfoWave (c : Params) (l : Lfo) (wrapped : Bool) (s : Draws) : Lfo × Int × Draws :=
  let (l', s') := lfoNoise c l wrapped s
  (l', lfoWaveValue c l', s')

/-- The output scaling of rule R324. -/
def lfoScale (w : Int) (k3 : U16) : Int := (w * ((k3.toNat : Int) + 1)) >>> (16 : Nat)

/-- The sample counter's step: it saturates at 2^32 - 1 (rule R325). -/
def lfoCount (count : U32) : U32 := if count = 4294967295 then count else count + 1

/-- A trigger sample of rule R325, the count already stepped. -/
def lfoTriggered (c : Params) (l : Lfo) : Lfo :=
  let l1 :=
    if l.sync then
      let (pp, predicted) := c.lfo.ppPredict l.pp l.count
      { l with pp := pp, phaseInc := c.lfo.syncInc predicted l.k.a0 }
    else l
  { l1 with count := 0, phase := 0 }

/-- One pass of the loop of rule R325. -/
def lfoSample (c : Params) (ls : Lfo × Draws) (ctrl : U8) : (Lfo × Draws) × S16 :=
  let (l, s) := ls
  let l1 := { l with count := lfoCount l.count }
  let (l2, wrapped) :=
    if rising ctrl then (lfoTriggered c l1, false)
    else ({ l1 with phase := phaseStep l1.phase l1.phaseInc },
      decide (l1.phase.toNat + l1.phaseInc.toNat ≥ 4294967296))
  let (l3, w, s') := lfoWave c l2 wrapped s
  ((l3, s'), BitVec.ofInt 16 (lfoScale w l3.k.a3))

/-- `Fill_LFO` (rule R325). -/
def lfoFill (c : Params) (l : Lfo) (ctrl : List U8) (s : Draws) : Lfo × List S16 × Draws :=
  let ((l', s'), ys) := renderBlock (lfoSample c) (l, s) ctrl
  (l', ys, s')

/-! NumberStation. -/

/-- `Init_NS` (rule R336). -/
def stationInit (c : Params) : NumberStation :=
  let u := c.ns.setup
  let filter (m : SvfMode) (f r : S16) : Svf := svfSetResonance (svfSetFrequency (svfSetMode svfInit m) f) r
  { nb := filter .bp u.nbFrequency u.nbResonance
    lp := filter .lp u.lpFrequency u.lpResonance
    hp := filter .hp u.hpFrequency u.hpResonance
    tonePhase := 0
    intfPhase := 0
    digit := u.digit
    k := Quad.same 0 }

/-- `Configure_NS` (rule R337). -/
def stationConfigure (c : Params) (n : NumberStation) (param : Quad U16) (mode : ControlMode) :
    NumberStation :=
  { n with k := knobs4 mode param c.ns.halfK2 c.ns.halfK3 }

/-- The per-edge decision of rule R338: one draw, compared with the transition probability k1. -/
def stationEdge (c : Params) (n : NumberStation) (rng : U32) : NumberStation × U32 :=
  let drawn := nextRandom c rng
  (if drawnChance drawn < n.k.a1.toNat then { n with digit := c.ns.transition n.digit drawn } else n, drawn)

/-- One pass of the loop of rule R338. -/
def stationSample (c : Params) (ns : NumberStation × U32) (ctrl : U8) : (NumberStation × U32) × S16 :=
  let (n, rng) := ns
  let (n1, rng1) := if rising ctrl then stationEdge c n rng else (n, rng)
  let drawn := nextRandom c rng1
  let (nb, colored) := svfProcess c n1.nb (drawnSample drawn).toInt
  let ((n2, tone), rng2) := c.ns.tone { n1 with nb := nb } drawn
  let ((n3, intf), rng3) := c.ns.interference n2 rng2
  let (m, rng4) := c.ns.mix tone intf colored n3.k rng3
  let (f, rng5) := c.ns.fold m n3.k rng4
  let (lp, low) := svfProcess c n3.lp f.toInt
  let (hp, y) := svfProcess c n3.hp low.toInt
  (({ n3 with lp := lp, hp := hp }, rng5), y)

/-- `Fill_NS` (rule R338). -/
def stationFill (c : Params) (n : NumberStation) (ctrl : List U8) (s : Draws) :
    NumberStation × List S16 × Draws :=
  let ((n', rng), ys) := renderBlock (stationSample c) (n, s.rng) ctrl
  (n', ys, { s with rng := rng })

end Sys2Proof.Machine
end

