-- ==== Sys2Proof/Machine/Channel.lean ====
section
/-! DEFINITION. One Processors channel (46_processors.md): the ring buffers, the dispatch table, the
hysteresis and Configure, and the channel's part of each `p.*` command. -/

namespace Sys2Proof.Machine

open Sys2Proof.Config

/-! Rings. -/

/-- `readable` of a ring of capacity `n` (rule R350). -/
def Ring.readable {α : Type} (n : Nat) (g : Ring α) : Nat := (((g.w : Int) - (g.r : Int)) % (n : Int)).toNat

/-- `writable` of a ring of capacity `n` (rule R350). -/
def Ring.writable {α : Type} (n : Nat) (g : Ring α) : Nat :=
  (((g.r : Int) - (g.w : Int) - 1) % (n : Int)).toNat

/-- An empty ring of `n` cells holding `zero` (10_state.md rule R37). -/
def Ring.init {α : Type} (n : Nat) (zero : α) : Ring α := ⟨List.replicate n zero, 0, 0⟩

/-- `RingWrite`: the ring and whether it was full (rule R351). -/
def Ring.write {α : Type} (n : Nat) (g : Ring α) (v : α) : Ring α × Bool :=
  ({ g with cells := g.cells.set g.w v, w := (g.w + 1) % n }, decide (g.writable n = 0))

/-- `RingRead`: the ring, the value and whether it was empty (rule R351). -/
def Ring.read {α : Type} (n : Nat) (zero : α) (g : Ring α) : Ring α × α × Bool :=
  ({ g with r := (g.r + 1) % n }, g.cells.getD g.r zero, decide (g.readable n = 0))

/-- `count` reads in a row: the values in order, and whether any found the ring empty. -/
def Ring.readMany {α : Type} (n : Nat) (zero : α) (count : Nat) (g : Ring α) : Ring α × List α × Bool :=
  match count with
  | 0 => (g, [], false)
  | count + 1 =>
    let (g1, v, wasEmpty) := g.read n zero
    let (g2, vs, wasEmpty') := Ring.readMany n zero count g1
    (g2, v :: vs, wasEmpty || wasEmpty')

/-- Writes of a list in order, and whether any found the ring full. -/
def Ring.writeMany {α : Type} (n : Nat) (vs : List α) (g : Ring α) : Ring α × Bool :=
  match vs with
  | [] => (g, false)
  | v :: rest =>
    let (g1, wasFull) := g.write n v
    let (g2, wasFull') := Ring.writeMany n rest g1
    (g2, wasFull || wasFull')

/-! The dispatch table (rule R353). -/

/-- The function's code (30_encoding.md rule R131). -/
def FunctionCode.code (f : FunctionCode) : Nat :=
  match f with
  | .bassDrum => 0
  | .snareDrum => 1
  | .fmDrum => 2
  | .highHat => 3
  | .pulseShaper => 4
  | .pulseRandomizer => 5
  | .bouncingBall => 6
  | .miniSequencer => 7
  | .multistageEnvelope => 8
  | .lfo => 9
  | .numberStation => 10
  | .tapLfo => 11

/-- The code of a control mode (rule R132). -/
def ControlMode.code (m : ControlMode) : Nat :=
  match m with
  | .full => 0
  | .half => 1

/-- The function is LFO or TAP_LFO, which share the record `lfo` (rule R131). -/
def FunctionCode.usesLfo (f : FunctionCode) : Bool := f == .lfo || f == .tapLfo

/-- The function is in BUFFERED (00_scope.md rule R10, 30_encoding.md rule R138). -/
def FunctionCode.buffered (f : FunctionCode) : Bool :=
  match f with
  | .bassDrum => false
  | .snareDrum => false
  | .highHat => false
  | .fmDrum => true
  | .pulseShaper => true
  | .pulseRandomizer => true
  | .bouncingBall => true
  | .miniSequencer => true
  | .multistageEnvelope => true
  | .lfo => true
  | .numberStation => true
  | .tapLfo => true

/-- `rec(f) <- Init_f()` (column init). -/
def initRecord (c : Params) (f : FunctionCode) (p : Processor) : Processor :=
  match f with
  | .bassDrum => { p with bd := bassInit c }
  | .snareDrum => { p with sd := snareInit c }
  | .fmDrum => { p with fm := fmInit c }
  | .highHat => { p with hh := hatInit c }
  | .pulseShaper => { p with ps := shaperInit }
  | .pulseRandomizer => { p with pr := randomizerInit }
  | .bouncingBall => { p with bb := ballInit c }
  | .miniSequencer => { p with ms := sequencerInit c }
  | .multistageEnvelope => { p with env := envelopeInit c }
  | .lfo => { p with lfo := lfoInit c }
  | .numberStation => { p with ns := stationInit c }
  | .tapLfo => { p with lfo := lfoInit c }

/-- `rec(f) <- Configure_f(rec(f), P.param, P.control_mode)` (column configure). -/
def configureRecord (c : Params) (f : FunctionCode) (p : Processor) : Processor :=
  match f with
  | .bassDrum => { p with bd := bassConfigure c p.bd p.param p.controlMode }
  | .snareDrum => { p with sd := snareConfigure c p.sd p.param p.controlMode }
  | .fmDrum => { p with fm := fmConfigure c p.fm p.param p.controlMode }
  | .highHat => { p with hh := hatConfigure c p.hh p.param p.controlMode }
  | .pulseShaper => { p with ps := shaperConfigure c p.ps p.param p.controlMode }
  | .pulseRandomizer => { p with pr := randomizerConfigure c p.pr p.param p.controlMode }
  | .bouncingBall => { p with bb := ballConfigure c p.bb p.param p.controlMode }
  | .miniSequencer => { p with ms := sequencerConfigure c p.ms p.param p.controlMode }
  | .multistageEnvelope => { p with env := envelopeConfigure c p.env p.param p.controlMode }
  | .lfo => { p with lfo := lfoConfigure c p.lfo p.param p.controlMode }
  | .numberStation => { p with ns := stationConfigure c p.ns p.param p.controlMode }
  | .tapLfo => { p with lfo := lfoConfigure c p.lfo p.param p.controlMode }

/-- Column "process single sample" for the active function; `none` is its null. -/
def processSample (c : Params) (p : Processor) (ctrl : U8) (s : Draws) : Option (Processor × S16 × Draws) :=
  match p.function with
  | .bassDrum => let (r, y, s') := bassSample c p.bd ctrl s; some ({ p with bd := r }, y, s')
  | .snareDrum => let (r, y, s') := snareSample c p.sd ctrl s; some ({ p with sd := r }, y, s')
  | .fmDrum => none
  | .highHat => let (r, y, s') := hatSample c p.hh ctrl s; some ({ p with hh := r }, y, s')
  | .pulseShaper => none
  | .pulseRandomizer => none
  | .bouncingBall => none
  | .miniSequencer => none
  | .multistageEnvelope => none
  | .lfo => none
  | .numberStation => none
  | .tapLfo => none

/-- Column "fill buffer" for the active function on the control bytes of a block; `none` is its null. -/
def fillBuffer (c : Params) (p : Processor) (ctrl : List U8) (s : Draws) :
    Option (Processor × List S16 × Draws) :=
  match p.function with
  | .bassDrum => none
  | .snareDrum => none
  | .fmDrum => let (r, ys, s') := fmFill c p.fm ctrl s; some ({ p with fm := r }, ys, s')
  | .highHat => none
  | .pulseShaper => let (r, ys, s') := shaperFill c p.ps ctrl s; some ({ p with ps := r }, ys, s')
  | .pulseRandomizer => let (r, ys, s') := randomizerFill c p.pr ctrl s; some ({ p with pr := r }, ys, s')
  | .bouncingBall => let (r, ys, s') := ballFill c p.bb ctrl s; some ({ p with bb := r }, ys, s')
  | .miniSequencer => let (r, ys, s') := sequencerFill c p.ms ctrl s; some ({ p with ms := r }, ys, s')
  | .multistageEnvelope => let (r, ys, s') := envelopeFill c p.env ctrl s; some ({ p with env := r }, ys, s')
  | .lfo => let (r, ys, s') := lfoFill c p.lfo ctrl s; some ({ p with lfo := r }, ys, s')
  | .numberStation => let (r, ys, s') := stationFill c p.ns ctrl s; some ({ p with ns := r }, ys, s')
  | .tapLfo => let (r, ys, s') := lfoFill c p.lfo ctrl s; some ({ p with lfo := r }, ys, s')

/-! Configure. -/

/-- `Hysteresis(P)` (rule R357): strict comparisons on the stored registers, in both modes. -/
def hysteresis (c : Params) (p : Processor) : Processor :=
  if p.function = .snareDrum ∧ 65000 < p.param.a1.toNat ∧ 65000 < p.param.a2.toNat then
    initRecord c .highHat { p with function := .highHat }
  else if p.function = .highHat ∧ (p.param.a1.toNat < 64500 ∨ p.param.a2.toNat < 64500) then
    initRecord c .snareDrum { p with function := .snareDrum }
  else p

/-- `Configure(P)` (rule R356): the voice configured is the one after the hysteresis. -/
def configure (c : Params) (p : Processor) : Processor :=
  let p1 := hysteresis c p
  configureRecord c p1.function p1

/-! The channel's part of the commands. -/

/-- A channel just before `p.init`'s Configure (rule R354). -/
def channelCleared (c : Params) : Processor :=
  { function := .bassDrum, controlMode := .full, param := Quad.same 0
    inRing := Ring.init c.ringCapacity 0, outRing := Ring.init c.ringCapacity 0
    bd := bassInit c, sd := snareInit c, fm := fmInit c, hh := hatInit c, ps := shaperInit
    pr := randomizerInit, bb := ballInit c, ms := sequencerInit c, env := envelopeInit c
    lfo := lfoInit c, ns := stationInit c }

/-- `p.init` (rule R354). -/
def channelInit (c : Params) : Processor := configure c (channelCleared c)

/-- The Lfo's sync flag set from a function code (rule R355). -/
def setLfoSync (f : FunctionCode) (p : Processor) : Processor :=
  { p with lfo := { p.lfo with sync := f == .tapLfo } }

/-- `p.set_function` (rule R355). -/
def channelSetFunction (c : Params) (f : FunctionCode) (p : Processor) : Processor :=
  let p1 :=
    if f.usesLfo && p.function.usesLfo then setLfoSync f p
    else if f.usesLfo then setLfoSync f (initRecord c f p)
    else initRecord c f p
  configure c { p1 with function := f }

/-- `p.set_parameter` (rule R358). -/
def channelSetParameter (c : Params) (i : Fin 4) (v : U16) (p : Processor) : Processor :=
  configure c { p with param := p.param.set i v }

/-- `p.set_control_mode` (rule R359). -/
def channelSetControlMode (c : Params) (m : ControlMode) (p : Processor) : Processor :=
  configure c { p with controlMode := m }

/-- What a channel's part of a command leaves: the channel, the draws, the ring events, and the value
it responds with. -/
structure ChannelResult (α : Type) where
  p : Processor
  draws : Draws
  events : RingEvents
  value : α

/-- `p.process` (rule R360). -/
def channelProcess (c : Params) (ctrl : U8) (p : Processor) (s : Draws) : ChannelResult S16 :=
  match processSample c p ctrl s with
  | some (p', y, s') => ⟨p', s', RingEvents.none, y⟩
  | none =>
    let (inRing, wasFull) := p.inRing.write c.ringCapacity ctrl
    let (outRing, y, wasEmpty) := p.outRing.read c.ringCapacity 0
    ⟨{ p with inRing := inRing, outRing := outRing }, s, ⟨false, wasFull, wasEmpty, false⟩, y⟩

/-- `p.buffer` (rule R361); the value says whether a block was rendered. -/
def channelBuffer (c : Params) (p : Processor) (s : Draws) : ChannelResult Bool :=
  if p.function.buffered = false then ⟨p, s, RingEvents.none, false⟩
  else if p.outRing.writable c.ringCapacity < c.blockSize then ⟨p, s, RingEvents.none, false⟩
  else
    let (inRing, ctrl, wasEmpty) := p.inRing.readMany c.ringCapacity 0 c.blockSize
    match fillBuffer c { p with inRing := inRing } ctrl s with
    | none => ⟨p, s, RingEvents.none, false⟩
    | some (p', ys, s') =>
      let (outRing, wasFull) := p'.outRing.writeMany c.ringCapacity ys
      ⟨{ p' with outRing := outRing }, s', ⟨wasEmpty, false, false, wasFull⟩, true⟩

end Sys2Proof.Machine
end

