-- ==== Sys2Proof/Machine/Conformance.lean ====
section
/-! DEFINITION. Which configurations are well formed: the constraints of 00_scope.md rule R11 and the
obligations the rules list (92_eei_decisions.md section 2; 93_implementation_defined.md section 2); and
the block's own configuration, an opaque constant of which nothing is known but that it is well formed. -/

namespace Sys2Proof.Machine

open Sys2Proof.Config

/-- The sum of the values of the pulses used, exact (41_excitation.md rule R197; DEDUCED,
notes/assumptions/20.md). -/
def pulseSum (used : Triple Bool) (v : Triple S32) : Int :=
  (if used.a0 then v.a0.toInt else 0) + (if used.a1 then v.a1.toInt else 0) + (if used.a2 then v.a2.toInt else 0)

/-- The obligations on the OPEN functions of a resonator drum: an excitation is a sum of values of pulses
and, while a pulse is not done, an offset that does not depend on the values (41_excitation.md rule R197,
43_voices_percussion.md rule R237); the settings recomputed by a Configure derive from the knobs (rule
R232); and only draws change the noise state (40_fixedpoint.md rule R169). -/
structure DrumConforms {κ : Type} (c : Params) (o : DrumOpen κ) : Prop where
  excite_sums : ∀ done d rng, ∃ used offset, (done = Triple.same true → offset = 0) ∧
    ∀ v, (o.excite v done d rng).1 = pulseSum used v + offset
  apply_knobs : ∀ d d' : Drum κ, d'.knobs = d.knobs → o.apply d' = o.apply d
  trigger_draws : ∀ d, DrawsOnly c (o.trigger d)
  excite_draws : ∀ v done d, DrawsOnly c (o.excite v done d)
  tune_draws : ∀ d done, DrawsOnly c (o.tune d done)
  mix_draws : ∀ e r d, DrawsOnly c (o.mix e r d)

/-- Only draws change the noise state in the OPEN functions of the NumberStation (rule R169). -/
structure StationConforms (c : Params) (o : StationOpen) : Prop where
  tone_draws : ∀ n, DrawsOnly c (o.tone n)
  interference_draws : ∀ n, DrawsOnly c (o.interference n)
  mix_draws : ∀ t i n k, DrawsOnly c (o.mix t i n k)
  fold_draws : ∀ m k, DrawsOnly c (o.fold m k)

/-- The samples of a resonator drum on a list of control bytes. -/
def drumOutputs {κ : Type} (c : Params) (o : DrumOpen κ) (d : Drum κ) (ctrl : List U8) (s : Draws) : List S16 :=
  match ctrl with
  | [] => []
  | b :: rest =>
    let (d1, y, s1) := drumSample c o d b s
    y :: drumOutputs c o d1 rest s1

/-- The samples of rule R238's scenario: one control byte with RISING, then 47999 of one without it. -/
def bassRun (c : Params) (d : BassDrum) (b quiet : U8) (s : Draws) : List S16 :=
  drumOutputs c c.bd d (b :: List.replicate 47999 quiet) s

/-- The small threshold of the scenario (43_voices_percussion.md rule R238; 95_test_vectors.md section 1). -/
def bassSmall : Nat := 100

/-- The BassDrum scenario of rule R238 from one record: it starts below the small threshold in magnitude,
has its peak among the samples of the rise, and is below the threshold again from sample 40000 on. -/
structure BassScenario (c : Params) (d : BassDrum) : Prop where
  start : ∀ b quiet s, rising b = true → rising quiet = false →
    ((bassRun c d b quiet s).getD 0 0).toInt.natAbs < bassSmall
  rise : ∀ b quiet s, rising b = true → rising quiet = false →
    ∃ i < c.bdRiseSamples, c.bdRise ≤ ((bassRun c d b quiet s).getD i 0).toInt.natAbs
  decay : ∀ b quiet s i, rising b = true → rising quiet = false → 40000 ≤ i → i < 48000 →
    ((bassRun c d b quiet s).getD i 0).toInt.natAbs < bassSmall

/-- The conformance of a BassDrum: the scenario after `Init_BD` (rule R238) and after reset
(95_test_vectors.md section 1). The rules give no number for the peak and the "few hundred" samples: they
are parameters, within the bounds here (DESIGN CHOICE, notes/assumptions/22.md). -/
structure BassConforms (c : Params) : Prop where
  large_peak : 10 * bassSmall ≤ c.bdRise
  few_hundred : c.bdRiseSamples < 1000
  after_init : BassScenario c (bassInit c)
  after_reset : BassScenario c (channelInit c).bd

/-- The amplitude, index and chirp envelopes of the FmDrum after `n` steps from a start, with the knobs
`knobs i` at step `i`. -/
def envRun (o : FmOpen) (knobs : Nat → Quad U16) (start : Int × Int × Int) (n : Nat) : Int × Int × Int :=
  match n with
  | 0 => start
  | n + 1 =>
    let (amp, index, chirp) := envRun o knobs start n
    o.envStep amp index chirp (knobs n)

/-- The level of the amplitude envelope after `n` steps: the magnitude of its state. -/
def ampLevel (o : FmOpen) (knobs : Nat → Quad U16) (start : Int × Int × Int) (n : Nat) : Nat :=
  (envRun o knobs start n).1.natAbs

/-- The level of the index envelope after `n` steps. -/
def indexLevel (o : FmOpen) (knobs : Nat → Quad U16) (start : Int × Int × Int) (n : Nat) : Nat :=
  (envRun o knobs start n).2.1.natAbs

/-- The chirp envelope after `n` steps. -/
def chirpAt (o : FmOpen) (knobs : Nat → Quad U16) (start : Int × Int × Int) (n : Nat) : Int :=
  (envRun o knobs start n).2.2

/-- Knobs that are turned any number of times and from some step on are held. -/
def HeldAtLast (knobs : Nat → Quad U16) : Prop := ∃ last, ∀ n, last ≤ n → knobs n = knobs last

/-- FM_EnvStep from a start (rule R247): both envelopes decay, that is their levels never grow and come to
half their start; the index decays faster, that is as a fraction of its start it is at no step above the
amplitude, and where both are started it is at some step below it. -/
structure EnvelopesDecay (o : FmOpen) (knobs : Nat → Quad U16) (start : Int × Int × Int) : Prop where
  amp_falls : ∀ n, ampLevel o knobs start (n + 1) ≤ ampLevel o knobs start n
  amp_decays : ∃ n, 2 * ampLevel o knobs start n ≤ ampLevel o knobs start 0
  index_falls : ∀ n, indexLevel o knobs start (n + 1) ≤ indexLevel o knobs start n
  index_decays : ∃ n, 2 * indexLevel o knobs start n ≤ indexLevel o knobs start 0
  index_below : ∀ n,
    indexLevel o knobs start n * ampLevel o knobs start 0 ≤ ampLevel o knobs start n * indexLevel o knobs start 0
  index_faster : start.1 ≠ 0 → start.2.1 ≠ 0 → ∃ n,
    indexLevel o knobs start n * ampLevel o knobs start 0 < ampLevel o knobs start n * indexLevel o knobs start 0

/-- The records a selected FmDrum can hold: it is initialised and configured (46_processors.md rule R355),
then rendered and configured in any order. -/
inductive FmReached (c : Params) : FmDrum → Prop where
  | selected (param : Quad U16) (mode : ControlMode) : FmReached c (fmConfigure c (fmInit c) param mode)
  | configured {m : FmDrum} (param : Quad U16) (mode : ControlMode) :
    FmReached c m → FmReached c (fmConfigure c m param mode)
  | rendered {m : FmDrum} (ctrl : U8) : FmReached c m → FmReached c (fmSample c m ctrl).1

/-- The envelopes a trigger of the FmDrum leaves (rule R246). -/
def fmStart (c : Params) (m : FmDrum) : Int × Int × Int :=
  let t := c.fm.trigger m
  (t.ampEnv, t.indexEnv, t.chirpEnv)

/-- The envelopes and the feedback of the FmDrum (rule R247). From what `Init_FM` leaves, and after every
trigger in every record reached, whichever way the knobs are turned meanwhile, the envelopes decay, the index
faster; after every trigger the chirp advances. Some trigger starts both envelopes (rule R246). In some record
the increment depends on the previous output, and on how far the chirp has advanced since a trigger
(DESIGN CHOICE, notes/assumptions/22.md). -/
structure FmConforms (c : Params) : Prop where
  idle : ∀ knobs, HeldAtLast knobs → EnvelopesDecay c.fm knobs (0, 0, 0)
  decay : ∀ m knobs, FmReached c m → knobs 0 = m.k → HeldAtLast knobs → EnvelopesDecay c.fm knobs (fmStart c m)
  chirp_advances : ∀ m knobs, FmReached c m → knobs 0 = m.k → HeldAtLast knobs →
    ∃ n, chirpAt c.fm knobs (fmStart c m) n ≠ chirpAt c.fm knobs (fmStart c m) 0
  restarts : ∃ m, FmReached c m ∧ (fmStart c m).1 ≠ 0 ∧ (fmStart c m).2.1 ≠ 0
  feedback : ∃ m prev, FmReached c m ∧
    c.fm.increment m.k m.chirpEnv prev m.x ≠ c.fm.increment m.k m.chirpEnv m.prev m.x
  chirped : ∃ m n, FmReached c m ∧
    (let chirp := chirpAt c.fm (fun _ => m.k) (fmStart c m)
     let x := (c.fm.trigger m).x
     c.fm.increment m.k (chirp n) m.prev x ≠ c.fm.increment m.k (chirp 0) m.prev x)

/-- A HighHat and its draws after the samples of a list of control bytes. -/
def hatRun (c : Params) (h : HighHat) (ctrl : List (BitVec 3)) (s : Draws) : HighHat × Draws :=
  match ctrl with
  | [] => (h, s)
  | b :: rest =>
    let (h1, _, s1) := hatSample c h (b.zeroExtend 8) s
    hatRun c h1 rest s1

/-- The HighHat reacts to RISING on the same sample (rule R251). After any samples since it was selected,
whatever GATE and FALLING are, the sample of a control byte with RISING differs from that of the byte
without it, for some noise state and some parameters with which the hysteresis keeps the hi-hat selected
(46_processors.md rule R357; DESIGN CHOICE, notes/assumptions/22.md). -/
def HatReacts (c : Params) : Prop :=
  ∀ (history : List (BitVec 3)) (b : BitVec 3),
    ∃ (param : Quad U16) (mode : ControlMode) (s : Draws),
      64500 ≤ param.a1.toNat ∧ 64500 ≤ param.a2.toNat ∧
      (let (h, s') := hatRun c (hatConfigure c (hatInit c) param mode) history s
       (hatSample c h ((b ||| 2).zeroExtend 8) s').2.1 ≠ (hatSample c h ((b &&& 5).zeroExtend 8) s').2.1)

/-- How far from its mark the triangle may end: one hundredth of the s16 span (DESIGN CHOICE,
notes/assumptions/21.md). -/
def slopeTolerance : Nat := 655

/-- LFO_Slopes of rule R323 for a split point `b`: the attack ends at about 32767 at `h = b`, for a triangle
that has one, and the decay at about -32768 at `h = 65535`. One step of the decay is allowed besides, which
the slope the rule gives as its example is short of the mark (DESIGN CHOICE, notes/assumptions/21.md). -/
structure SlopesReach (b : Nat) (up down : Int) : Prop where
  attack_ends : 1 ≤ b → (triangleAttack up b - 32767).natAbs ≤ slopeTolerance
  decay_ends : (triangleDecay down b 65535 + 32768).natAbs ≤ slopeTolerance + 65535 / (65536 - b)

end Sys2Proof.Machine

namespace Sys2Proof.Config

open Sys2Proof.Machine

/-- The constraints a configuration must meet, but for those its types already hold. The resonance clamp and
the punch of SvfCoef (42_svf.md rule R217) are asked of no function: the rule states no bound and no law, and
the configuration TC-SVF, which 95_test_vectors.md says meets it, has neither (DESIGN CHOICE,
notes/assumptions/21.md). That BB_Gravity and BB_LaunchVelocity be below 2^30 is not asked either
(DESIGN CHOICE, notes/assumptions/5.md). -/
structure Params.WellFormed (p : Params) : Prop where
  block_pos : 1 ≤ p.blockSize
  ring_multiple : p.blockSize ∣ p.ringCapacity
  ring_room : 2 * p.blockSize ≤ p.ringCapacity
  shapes_pos : 1 ≤ p.numShapes
  smooth_shift : 1 ≤ p.pitchSmoothShift ∧ p.pitchSmoothShift ≤ 15
  frac_bits : 1 ≤ p.lutFracBits ∧ p.lutFracBits ≤ 10 ∧ 2 ^ p.lutFracBits ∣ 1536
  table_length : p.incTable.length = 1536 / 2 ^ p.lutFracBits + 1
  table_rises : ∀ j, j + 1 < p.incTable.length →
    (p.incTable.getD j 0).toNat ≤ (p.incTable.getD (j + 1) 0).toNat
  table_octave : (p.incTable.getD (1536 / 2 ^ p.lutFracBits) 0).toNat ≤ 2 * (p.incTable.getD 0 0).toNat
  table_exact : ∀ j, j + 1 < p.incTable.length →
    ((p.incTable.getD (j + 1) 0).toNat - (p.incTable.getD j 0).toNat) * 2 ^ p.lutFracBits < 2 ^ 32
  svf_shift : 1 ≤ p.svfShift ∧ p.svfShift ≤ 30
  svf_no_punch : ∀ f r lp bp lp' bp', p.svfCoef f r 0 lp bp = p.svfCoef f r 0 lp' bp'
  interp_bits : 1 ≤ p.interp824FracBits ∧ p.interp824FracBits ≤ 24
  sine_length : p.lfo.lutSine.length = 257
  pulse_high : 1 ≤ p.pulseHigh.toInt
  notch_pos : 1 ≤ p.ps.notchSamples
  duration_pos : ∀ k, 1 ≤ p.ps.duration k
  mean_pos : ∀ k, 1 ≤ p.pr.mean k
  pulse_samples_pos : 1 ≤ p.pr.pulseSamples
  render_keeps : ∀ s i, (p.renderShape s i).Always fun out =>
    out.union.length = i.union.length ∧ out.scratch.length = i.scratch.length ∧ ∃ n, out.rng = randomRun p n i.rng
  bd_conforms : DrumConforms p p.bd
  sd_conforms : DrumConforms p p.sd
  hat_draws : ∀ h b, DrawsOnly p (p.hh.sample h b)
  sequencer_draws : ∀ m ctrl, DrawsOnly p (p.ms.fill m ctrl)
  station_conforms : StationConforms p p.ns
  bass_conforms : BassConforms p
  fm_conforms : FmConforms p
  hat_reacts : HatReacts p
  slopes_reach : ∀ k : U16, SlopesReach k.toNat (p.lfo.slopes k).1 (p.lfo.slopes k).2

/-- The default BassDrum with a low-pass state and a first pulse. -/
def plainDrum (lp : S32) (e : Excitation) : BassDrum :=
  { pulse := ⟨e, ⟨0, 0, 0, 0, 0⟩, ⟨0, 0, 0, 0, 0⟩⟩, res := ⟨⟨0, 0, 0, 0, 0, .lp⟩, ⟨0, 0, 0, 0, 0, .lp⟩⟩, lp := lp
    knobs := ⟨0, 0, 0, 0⟩, lpCoef := 1, x := [] }

/-- The configuration of the default values. -/
def plainConfig : Params := {}

/-- A sample of that drum without a trigger, where its pulse's process and the low-pass store are known. -/
theorem plainDrum_sample (lp lp' v : S32) (e e' : Excitation) (s : Draws) (b : U8) (hb : rising b = false)
    (he : ∀ f, excProcess plainConfig e f = (e', v, f))
    (hs : ∀ f, storeS32 plainConfig (onePole lp.toInt v.toInt 1 0) f = (lp', f)) :
    drumSample plainConfig plainConfig.bd (plainDrum lp e) b s = (plainDrum lp' e', sample16 lp'.toInt, s) := by
  have hr : ∀ f, excProcess plainConfig ⟨0, 0, 0, 0, 0⟩ f = (⟨0, 0, 0, 0, 0⟩, 0, f) := fun _ => rfl
  have hv : ∀ x : Int, svfProcess plainConfig ⟨0, 0, 0, 0, 0, .lp⟩ x = (⟨0, 0, 0, 0, 0, .lp⟩, 0) := fun x => by
    have hc : plainConfig.svfCoef 0 0 0 0 0 = (0, 0) := rfl
    simp only [svfProcess, hc]
    simp [svfStages, svfTap, clip16]
  have hx : ∀ (t : Triple Bool) (d : Drum BassKnobs) rng, plainConfig.bd.excite ⟨v, 0, 0⟩ t d rng = (v.toInt, rng) :=
    fun t d rng => by
      have hu : plainConfig.bd.excite ⟨v, 0, 0⟩ t d rng = (v.toInt + (0 : S32).toInt + (0 : S32).toInt, rng) := rfl
      rw [hu]
      simp
  have ht : ∀ d t rng, plainConfig.bd.tune d t rng = ((⟨⟨0, 0, .lp⟩, ⟨0, 0, .lp⟩⟩, d.x), rng) := fun _ _ _ => rfl
  have hm : ∀ e r d rng, plainConfig.bd.mix e r d rng = (e, rng) := fun _ _ _ _ => rfl
  have hl : plainConfig.bd.lpShift = 0 := rfl
  simp only [drumSample, plainDrum, hb, he, hr, hx, ht, hm, hl, svfTune, svfSetMode, svfSetPunch,
    svfSetFrequency, hv, hs, Bool.false_eq_true, if_false]

/-- A trigger is a sample without one on the pulse triggered. -/
theorem plainDrum_trigger (lp : S32) (e : Excitation) (s : Draws) (b quiet : U8) (hb : rising b = true)
    (hq : rising quiet = false) :
    drumSample plainConfig plainConfig.bd (plainDrum lp e) b s =
      drumSample plainConfig plainConfig.bd (plainDrum lp (excTrigger e 32767)) quiet s := by
  have ht : ∀ d rng, plainConfig.bd.trigger d rng = ((⟨some 32767, none, none⟩, d.x), rng) := fun _ _ => rfl
  simp only [drumSample, hb, hq, ht, excTriggerIf, if_true, Bool.false_eq_true, if_false,
    plainDrum]

/-- Once still, that drum stays so. -/
theorem plainDrum_still (n : Nat) (quiet : U8) (s : Draws) (hq : rising quiet = false) :
    drumOutputs plainConfig plainConfig.bd (plainDrum 0 ⟨1, 0, 0, 0, 32767⟩) (List.replicate n quiet) s =
      List.replicate n 0 := by
  induction n with
  | zero => rfl
  | succ n ih =>
    simp only [List.replicate_succ, drumOutputs,
      plainDrum_sample 0 0 0 ⟨1, 0, 0, 0, 32767⟩ ⟨1, 0, 0, 0, 32767⟩ s quiet hq (fun _ => rfl) (fun _ => rfl), ih]
    rfl

/-- The run of rule R238's scenario: silence, the transient, silence. -/
theorem plainDrum_outputs (n : Nat) (b quiet : U8) (s : Draws) (h : rising b = true) (hq : rising quiet = false) :
    drumOutputs plainConfig plainConfig.bd (plainDrum 0 ⟨1, 0, 0, 0, 0⟩) (b :: List.replicate (n + 2) quiet) s =
      0 :: 32767 :: List.replicate (n + 1) 0 := by
  have h0 := plainDrum_trigger 0 ⟨1, 0, 0, 0, 0⟩ s b quiet h hq
  rw [plainDrum_sample 0 0 0 (excTrigger ⟨1, 0, 0, 0, 0⟩ 32767) ⟨1, 0, 1, 0, 32767⟩ s quiet hq
    (fun _ => rfl) (fun _ => rfl)] at h0
  have h1 := plainDrum_sample 0 32767 32767 ⟨1, 0, 1, 0, 32767⟩ ⟨1, 0, 0, 32767, 32767⟩ s quiet hq
    (fun _ => rfl) (fun _ => rfl)
  have h2 := plainDrum_sample 32767 0 0 ⟨1, 0, 0, 32767, 32767⟩ ⟨1, 0, 0, 0, 32767⟩ s quiet hq
    (fun _ => rfl) (fun _ => rfl)
  simp only [List.replicate_succ, drumOutputs, h0, h1, h2, plainDrum_still n quiet s hq]
  rfl

theorem getD_replicate_zero (n i : Nat) : (List.replicate n (0 : S16)).getD i 0 = 0 := by
  simp [List.getD_eq_getElem?_getD, List.getElem?_replicate]
  split <;> rfl

theorem plainDrum_scenario : BassScenario plainConfig (plainDrum 0 ⟨1, 0, 0, 0, 0⟩) where
  start := fun b quiet s h hq => by rw [bassRun, plainDrum_outputs 47997 b quiet s h hq]; decide
  rise := fun b quiet s h hq => ⟨1, by decide, by rw [bassRun, plainDrum_outputs 47997 b quiet s h hq]; decide⟩
  decay := fun b quiet s i h hq hi _ => by
    obtain ⟨j, rfl⟩ : ∃ j, i = j + 2 := ⟨i - 2, by omega⟩
    rw [bassRun, plainDrum_outputs 47997 b quiet s h hq]
    simp only [List.getD_cons_succ, getD_replicate_zero]
    decide

theorem plain_bassConforms : BassConforms plainConfig where
  large_peak := by decide
  few_hundred := by decide
  after_init := plainDrum_scenario
  after_reset := plainDrum_scenario

/-- The default envelopes: the amplitude halves and the index is gone after a step. -/
theorem plain_envelopesDecay (knobs : Nat → Quad U16) (start : Int × Int × Int) (h : start.1.natAbs ≠ 1) :
    EnvelopesDecay plainConfig.fm knobs start where
  amp_falls := fun n => Nat.div_le_self (ampLevel plainConfig.fm knobs start n) 2
  amp_decays := ⟨1, Nat.mul_div_le start.1.natAbs 2⟩
  index_falls := fun _ => Nat.zero_le _
  index_decays := ⟨1, Nat.zero_le _⟩
  index_below := fun n => by
    cases n with
    | zero => exact Nat.le_of_eq (Nat.mul_comm _ _)
    | succ n => exact (Nat.zero_mul _).symm ▸ Nat.zero_le _
  index_faster := fun ha hi => ⟨1, by
    show 0 * _ < start.1.natAbs / 2 * start.2.1.natAbs
    rw [Nat.zero_mul]
    exact Nat.mul_pos (by omega) (by omega)⟩

theorem plain_fmConforms : FmConforms plainConfig where
  idle := fun knobs _ => plain_envelopesDecay knobs _ (by decide)
  decay := fun _ knobs _ _ _ => plain_envelopesDecay knobs (2, 2, 0) (by decide)
  chirp_advances := fun _ _ _ _ _ => ⟨1, by show (0 : Int) + 1 ≠ 0; decide⟩
  restarts := ⟨_, .selected (Quad.same 0) .full, by decide, by decide⟩
  feedback := ⟨_, 1, .selected (Quad.same 0) .full, by decide⟩
  chirped := ⟨_, 1, .selected (Quad.same 0) .full, by decide⟩

/-- The slopes rule R323 gives as its example, rounded down, reach their marks. -/
theorem exampleSlopes_reach (b : Nat) (hb : b < 65536) :
    SlopesReach b (65535 * 65536 / (b : Int)) (65535 * 65536 / (65536 - (b : Int))) where
  attack_ends := fun h => by
    have hlt := Int.lt_mul_ediv_self_add (x := 65535 * 65536) (k := (b : Int)) (by omega)
    have hle := Int.mul_ediv_self_le (x := 65535 * 65536) (k := (b : Int)) (by omega)
    simp only [triangleAttack, slopeTolerance, Int.shiftRight_eq_div_pow]
    omega
  decay_ends := by
    obtain ⟨w, hw⟩ : ∃ w : Nat, w = 65536 - b := ⟨_, rfl⟩
    have hpos : (0 : Int) < w := by omega
    have hlt := Int.lt_mul_ediv_self_add (x := 65535 * 65536) hpos
    have hle := Int.mul_ediv_self_le (x := 65535 * 65536) (k := (w : Int)) (by omega)
    have hq : (65535 * 65536 : Int) / w / 65536 = 65535 / w := by
      rw [Int.ediv_ediv_of_nonneg hpos.le, mul_comm (w : Int), ← Int.ediv_ediv_of_nonneg (by decide)]
      rfl
    have hd : (0 : Int) ≤ 65535 * 65536 / w := Int.ediv_nonneg (by decide) hpos.le
    have hb' : ((65535 : Nat) : Int) - b = w - 1 := by omega
    have hc : (65536 : Int) - b = w := by omega
    have hn : ((65535 / w : Nat) : Int) = 65535 / (w : Int) := by push_cast; rfl
    simp only [triangleDecay, slopeTolerance, Int.shiftRight_eq_div_pow, hb', hc, ← hw, sub_mul, one_mul]
    omega

/-- A drum whose OPEN functions draw nothing and whose excitation is the sum of the three values. -/
theorem drumConforms_of_plain {κ : Type} (o : DrumOpen κ)
    (he : ∀ v t d rng, o.excite v t d rng = (v.a0.toInt + v.a1.toInt + v.a2.toInt, rng))
    (ha : ∀ d, o.apply d = {}) (ht : ∀ d rng, (o.trigger d rng).2 = rng) (hu : ∀ d t rng, (o.tune d t rng).2 = rng)
    (hm : ∀ e r d rng, (o.mix e r d rng).2 = rng) : DrumConforms plainConfig o where
  excite_sums := fun done d rng => ⟨Triple.same true, 0, fun _ => rfl, fun v => by simp [he, pulseSum, Triple.same]⟩
  apply_knobs := fun d d' _ => by rw [ha, ha]
  trigger_draws := fun d rng => ⟨0, ht d rng⟩
  excite_draws := fun v t d rng => ⟨0, by rw [he]; rfl⟩
  tune_draws := fun d t rng => ⟨0, hu d t rng⟩
  mix_draws := fun e r d rng => ⟨0, hm e r d rng⟩

/-- The default HighHat's sample is its RISING bit, whatever its record. -/
theorem plain_hatReacts : HatReacts plainConfig := fun history b => by
  refine ⟨⟨0, 64500, 64500, 0⟩, .full, ⟨0, 0⟩, by decide, by decide, ?_⟩
  generalize hatRun plainConfig _ history _ = run
  have h : ∀ x : U8, (hatSample plainConfig run.1 x run.2).2.1 = if x.getLsbD 1 then 1 else 0 := fun _ => rfl
  show (hatSample plainConfig run.1 _ run.2).2.1 ≠ (hatSample plainConfig run.1 _ run.2).2.1
  rw [h, h]
  revert b
  decide

/-- Some configuration is well formed. -/
theorem Params.default_wellFormed : Params.WellFormed plainConfig where
  block_pos := by decide
  ring_multiple := by decide
  ring_room := by decide
  shapes_pos := by decide
  smooth_shift := by decide
  frac_bits := by decide
  table_length := by decide
  table_rises := by
    intro j h
    have h13 : j + 1 < 13 := h
    have : j < 12 := by omega
    interval_cases j <;> decide
  table_octave := by decide
  table_exact := by
    intro j h
    have h13 : j + 1 < 13 := h
    have : j < 12 := by omega
    interval_cases j <;> decide
  svf_shift := by decide
  svf_no_punch := by intros; rfl
  interp_bits := by decide
  sine_length := List.length_replicate
  pulse_high := by decide
  notch_pos := by decide
  duration_pos := fun k => Nat.le_max_left 1 k.toNat
  mean_pos := fun _ => Nat.le_refl 1
  pulse_samples_pos := by decide
  render_keeps := fun _ _ => ⟨rfl, rfl, 0, rfl⟩
  bd_conforms := drumConforms_of_plain _ (fun _ _ _ _ => rfl) (fun _ => rfl) (fun _ _ => rfl) (fun _ _ _ => rfl)
    (fun _ _ _ _ => rfl)
  sd_conforms := drumConforms_of_plain _ (fun _ _ _ _ => rfl) (fun _ => rfl) (fun _ _ => rfl) (fun _ _ _ => rfl)
    (fun _ _ _ _ => rfl)
  hat_draws := fun _ _ _ => ⟨0, rfl⟩
  sequencer_draws := fun _ _ _ => ⟨0, rfl⟩
  station_conforms :=
    ⟨fun _ _ => ⟨0, rfl⟩, fun _ _ => ⟨0, rfl⟩, fun _ _ _ _ _ => ⟨0, rfl⟩, fun _ _ _ => ⟨0, rfl⟩⟩
  bass_conforms := plain_bassConforms
  fm_conforms := plain_fmConforms
  hat_reacts := plain_hatReacts
  slopes_reach := fun k => exampleSlopes_reach k.toNat k.isLt

/-- A configuration together with the proof that it is well formed. -/
structure Configuration where
  params : Params := plainConfig
  wellFormed : params.WellFormed := by exact Params.default_wellFormed
deriving Inhabited

/-- The configuration of this block: OPEN, so opaque. -/
opaque machine : Configuration

/-- The block's OPEN parameters. -/
def cfg : Params := machine.params

/-- The block's configuration meets its constraints. -/
theorem cfg_wellFormed : cfg.WellFormed := machine.wellFormed

end Sys2Proof.Config
end

