-- ==== Sys2Proof/Machine/Shapes.lean ====
section
/-! DEFINITION. The oscillator record's own operations (47_oscillator.md): its Init, the pitch smoother,
the phase increment, the deferred shape init and the render of one block. -/

namespace Sys2Proof.Machine

open Sys2Proof.Config

/-- `o.init` (rule R391). -/
def oscInit (c : Params) : Oscillator :=
  { shape := 0, prevShape := 0, firstRender := true, pitch := 0, param := Pair.same 0, phase := 0
    phaseInc := 0, strike := false, union := List.replicate c.unionBytes 0, exc := Quad.same excInit
    svf := Triple.same svfInit, scratch := List.replicate c.scratchBytes 0 }

/-- The new pitch of `o.set_pitch` (rule R394). -/
def smoothPitch (c : Params) (old p : S16) : S16 :=
  if c.pitchSmoothThreshold.toInt < old.toInt ∧ c.pitchSmoothThreshold.toInt < p.toInt then
    BitVec.ofInt 16 (onePole old.toInt p.toInt 1 c.pitchSmoothShift)
  else p

/-- OCTAVE (00_scope.md rule R9). -/
def octave : Int := 1536

/-- The octave folding of rule R396: add an octave while the reference is negative, counting. Each
fold consumes one of `fuel`. -/
def foldOctaves (fuel : Nat) (ref : Int) (folds : Nat) : Int × Nat :=
  match fuel with
  | 0 => (ref, folds)
  | fuel + 1 => if ref < 0 then foldOctaves fuel (ref + octave) (folds + 1) else (ref, folds)

/-- The folds a reference needs: `ceil(-ref / OCTAVE)`, none when it is not negative. -/
def foldFuel (ref : Int) : Nat := ((-ref).toNat + 1535) / 1536

/-- Entry `j` of INC_TABLE. -/
def incAt (c : Params) (j : Nat) : Int := ((c.incTable.getD j 0).toNat : Int)

/-- The interpolation of rule R396 at a reference in the table's octave. -/
def interpolateInc (c : Params) (ref : Nat) : Int :=
  let f := c.lutFracBits
  let idx := ref >>> f
  let frac : Int := (ref % 2 ^ f : Nat)
  let a := incAt c idx
  let b := incAt c (idx + 1)
  a + (((b - a) * frac) >>> f)

/-- `ComputePhaseIncrement` (rule R396). -/
def computePhaseIncrement (c : Params) (pitch : S16) : U32 :=
  let ref0 := pitch.toInt - c.pitchTableStart.toInt
  let ref1 := if ref0 > octave - 1 then octave - 1 else ref0
  let (ref, folds) := foldOctaves (foldFuel ref1) ref1 0
  (BitVec.ofInt 32 (interpolateInc c ref.toNat)) >>> folds

/-- Shape change and shape init, the first step of a render (rule R398). -/
def shapeInit (c : Params) (o : Oscillator) : Oscillator :=
  if o.shape ≠ o.prevShape then
    { o with
      union := List.replicate c.unionBytes 0
      scratch := List.replicate c.scratchBytes 0
      exc := Quad.same excInit
      svf := Triple.same svfInit
      phase := 0
      prevShape := o.shape
      firstRender := true }
  else o

/-- The arguments the renderer is called with (rule R399). -/
def renderArgs (o : Oscillator) (sync : List U8) (n : Nat) (rng : U32) : RenderIn :=
  { phase := o.phase, phaseInc := o.phaseInc, pitch := o.pitch, param := o.param, strike := o.strike
    firstRender := o.firstRender, union := o.union, scratch := o.scratch, sync := sync, size := n
    rng := rng }

/-- What a renderer's calls act on, and the next free index. -/
structure RenderUnits where
  exc : Quad Excitation
  svf : Triple Svf
  free : Nat
deriving DecidableEq, Repr

/-- A renderer's setter on Excitation `k`. -/
def RenderUnits.onExc (u : RenderUnits) (k : Fin 4) (f : Excitation → Excitation) : RenderUnits :=
  { u with exc := u.exc.set k (f (u.exc.get k)) }

/-- A renderer's setter on Svf `k`. -/
def RenderUnits.onSvf (u : RenderUnits) (k : Fin 3) (f : Svf → Svf) : RenderUnits :=
  { u with svf := u.svf.set k (f (u.svf.get k)) }

/-- A renderer's call: the function of 41_excitation.md or 42_svf.md it names, on the oscillator's own records
(rule R400). -/
def renderCall (c : Params) (call : RenderCall) (u : RenderUnits) : call.Answer × RenderUnits :=
  match call with
  | .excInit k => ((), u.onExc k fun _ => excInit)
  | .excSetDelay k d => ((), u.onExc k fun e => excSetDelay e d)
  | .excSetDecay k d => ((), u.onExc k fun e => excSetDecay e d)
  | .excTrigger k level => ((), u.onExc k fun e => excTrigger e level)
  | .excProcess k =>
    let (e, value, free) := excProcess c (u.exc.get k) u.free
    (value, { u with exc := u.exc.set k e, free := free })
  | .excDone k => (excDone (u.exc.get k), u)
  | .svfInit k => ((), u.onSvf k fun _ => svfInit)
  | .svfSetFrequency k f => ((), u.onSvf k fun v => svfSetFrequency v f)
  | .svfSetResonance k r => ((), u.onSvf k fun v => svfSetResonance v r)
  | .svfSetPunch k p => ((), u.onSvf k fun v => svfSetPunch v p)
  | .svfSetMode k m => ((), u.onSvf k fun v => svfSetMode v m)
  | .svfProcess k x =>
    let (v, y) := svfProcess c (u.svf.get k) x.toInt
    (y, { u with svf := u.svf.set k v })

/-- The oscillator as the renderer finds it: after the shape init, with the increment of its pitch. -/
def renderStart (c : Params) (o : Oscillator) : Oscillator :=
  { shapeInit c o with phaseInc := computePhaseIncrement c o.pitch }

/-- `o.render` on the oscillator (rule R399): the record, the n samples and the draws. -/
def oscRender (c : Params) (o : Oscillator) (sync : List U8) (n : Nat) (draws : Draws) :
    Oscillator × List S16 × Draws :=
  let o1 := renderStart c o
  let (out, units) :=
    (c.renderShape o1.shape (renderArgs o1 sync n draws.rng)).run (renderCall c) ⟨o1.exc, o1.svf, draws.free⟩
  ({ o1 with
     phase := out.phase
     union := out.union
     exc := units.exc
     svf := units.svf
     scratch := out.scratch
     strike := if c.shapeUsesStrike o1.shape then false else o1.strike
     firstRender := false },
   (List.range n).map out.y, ⟨out.rng, units.free⟩)

end Sys2Proof.Machine
end

