-- ==== Sys2Proof/Machine/State.lean ====
section
/-! DEFINITION. The state of the block (10_state.md), the reasons a step can stop, and the state after
reset (70_reset_and_hazards.md rules R481 and R482). Plain data. -/

namespace Sys2Proof.Machine

open Sys2Proof.Config

/-- Why the MODEL would stop with a fault: never. Every fault the spec gives this hardware is an entry
into the halted state, which is a next state (60_exceptions.md rules R452 and R453), and no rule leaves
a command without an effect. So this type has no constructor: nothing raises it, which is safe. -/
inductive Fault : Type
deriving DecidableEq, Repr

/-- Why the model has no meaning for a command. -/
inductive Refusal where
  /-- Raised only by an arm of `exec` whose instruction has no meaning yet; no arm raises it now. Safe:
  nothing can be proved of a step that is refused. -/
  | notModelled (mnemonic : String)
deriving DecidableEq, Repr

/-- The host-port space (20_memory.md rules R80 to R82) as (address, byte) pairs: addresses strictly
rising, and no byte that equals what an unlisted address reads as, which is 0, the reset contents of
SYNC_BUF and OUT_BUF (rule R82). -/
abbrev Memory := List Host.Cell

/-- The canonical form of a memory. -/
abbrev Memory.wf (m : Memory) : Prop :=
  m.Pairwise (fun x y => x.1 < y.1) ∧ ∀ x ∈ m, x.2 ≠ 0

/-- The system unit `S` (10_state.md rules R33, R34, R40). -/
structure System where
  status : U32
  faultCmd : Command
  dacOffset : Pair S16
  rng : U32
deriving DecidableEq, Repr

/-- The state of the block, and three fields of the MODEL's own (INVENTORY.md, State): the commands the
host has issued and the block has not yet performed, the response of the last command, and the index
of the next free value. -/
structure State where
  sys : System
  p0 : Processor
  p1 : Processor
  osc : Oscillator
  hostPort : Memory
  pending : List Command
  response : Response
  freeCount : Nat
deriving DecidableEq, Repr

/-- The state after reset under a configuration (rules R481 and R482): each channel as `p.init` leaves it,
so `bd` is configured after its Init (DEDUCED, notes/assumptions/23.md). -/
def State.resetWith (c : Params) : State :=
  { sys := { status := 0, faultCmd := 0, dacOffset := Pair.same 0, rng := c.lcgSeed }
    p0 := channelInit c
    p1 := channelInit c
    osc := oscInit c
    hostPort := []
    pending := []
    response := ⟨.ok, 0⟩
    freeCount := 0 }

/-- The block right after power-on (rule R480). -/
def State.reset : State := State.resetWith Config.cfg

end Sys2Proof.Machine
end

