-- ==== Sys2Proof/Machine/Ops.lean ====
section
/-! DEFINITION. The named operations over the state: unit updates, the host-port memory, the response,
taking a fault and the halted state (60_exceptions.md rules R452 and R453), and reset, the one way
back from it (rule R456). -/

namespace Sys2Proof.Machine

open Sys2Proof.Config

/-! Units of the state. -/

/-- Channel `ch` (30_encoding.md rule R122). -/
def State.proc (s : State) (ch : Chan) : Processor :=
  match ch with
  | .ch0 => s.p0
  | .ch1 => s.p1

/-- The state with channel `ch` replaced. -/
def State.withProc (s : State) (ch : Chan) (p : Processor) : State :=
  match ch with
  | .ch0 => { s with p0 := p }
  | .ch1 => { s with p1 := p }

/-- The state with the oscillator replaced. -/
def State.withOsc (s : State) (o : Oscillator) : State := { s with osc := o }

/-- The state with the host-port memory replaced. -/
def State.withHostPort (s : State) (m : Memory) : State := { s with hostPort := m }

/-- The state with the status word replaced. -/
def State.withStatus (s : State) (st : U32) : State := { s with sys := { s.sys with status := st } }

/-- The state with a DAC offset replaced. -/
def State.withDacOffset (s : State) (ch : Fin 2) (off : S16) : State :=
  { s with sys := { s.sys with dacOffset := s.sys.dacOffset.set ch off } }

/-- What a voice draws from. -/
def State.draws (s : State) : Draws := ⟨s.sys.rng, s.freeCount⟩

/-- The state after a voice has drawn. -/
def State.withDraws (s : State) (d : Draws) : State :=
  { s with sys := { s.sys with rng := d.rng }, freeCount := d.free }

/-- The state with Excitation `k` of the oscillator replaced (41_excitation.md rule R190). -/
def State.withExc (s : State) (k : Fin 4) (e : Excitation) : State :=
  { s with osc := { s.osc with exc := s.osc.exc.set k e } }

/-- The state with Svf `k` of the oscillator replaced (42_svf.md rule R210). -/
def State.withSvf (s : State) (k : Fin 3) (v : Svf) : State :=
  { s with osc := { s.osc with svf := s.osc.svf.set k v } }

/-! Responses, faults and the halted state. -/

/-- The code of a response kind (30_encoding.md rule R127). -/
def ResponseKind.code (k : ResponseKind) : Nat :=
  match k with
  | .ok => 0
  | .fault => 1
  | .halted => 2

/-- The state with the command's response set. -/
def State.respond (s : State) (kind : ResponseKind) (value : U32) : State :=
  { s with response := ⟨kind, value⟩ }

/-- `respond(v)` of the rules: an OK response (00_scope.md rule R17). -/
def State.ok (s : State) (value : U32) : State := s.respond .ok value

/-- The block is halted (rule R453). -/
def State.halted (s : State) : Bool := statusFaulted s.sys.status

/-- `raise Fault(cause)` for a command word. Not halted: fault entry, which writes FAULTED, the cause,
the command word and the response, and nothing else (rule R452). Halted (only `sys.status` and
`sys.reset` get here): the response alone, no second entry (rule R453). -/
def raiseFault (cause : Cause) (word : Command) (s : State) : State :=
  if s.halted then s.respond .fault (BitVec.ofNat 32 cause.code)
  else
    { s with
      sys := { s.sys with status := statusOnFault s.sys.status cause, faultCmd := word }
      response := ⟨.fault, BitVec.ofNat 32 cause.code⟩ }

/-- A command other than `sys.status` and `sys.reset`: refused with (HALTED, 0), changing nothing,
while the block is halted (rule R453). -/
def whenRunning (s after : State) : State := if s.halted then s.respond .halted 0 else after

/-- The reset action (70_reset_and_hazards.md rule R481). The commands the host has yet to issue are
the host's, and the free values already drawn stay drawn. -/
def resetAction (c : Params) (s : State) : State :=
  { State.resetWith c with pending := s.pending, response := s.response, freeCount := s.freeCount }

/-! The host-port memory. -/

/-- The byte at an address; an unlisted address reads 0 (20_memory.md rule R82). -/
def Memory.read (m : Memory) (a : Nat) : U8 :=
  match m with
  | [] => 0
  | (b, x) :: rest => if a = b then x else Memory.read rest a

/-- Write a byte, keeping the canonical form. -/
def Memory.write (m : Memory) (a : Nat) (v : U8) : Memory :=
  match m with
  | [] => if v = 0 then [] else [(a, v)]
  | (b, x) :: rest =>
    if a < b then (if v = 0 then (b, x) :: rest else (a, v) :: (b, x) :: rest)
    else if a = b then (if v = 0 then rest else (a, v) :: rest)
    else (b, x) :: Memory.write rest a v

/-- `MemRead(a, 2)`, little-endian (rules R17 and R86). -/
def Memory.read16 (m : Memory) (a : Nat) : U16 := m.read (a + 1) ++ m.read a

/-- `MemWrite(a, 2, v)`, little-endian (rules R17 and R86). -/
def Memory.write16 (m : Memory) (a : Nat) (v : U16) : Memory :=
  (m.write a (v.extractLsb' 0 8)).write (a + 1) (v.extractLsb' 8 8)

/-- The address is in SYNC_BUF or OUT_BUF (rule R81). -/
def mapped (a : Nat) : Bool := decide (a < 768)

/-- SYNC_BUF[i] for i below n (rule R82). -/
def Memory.syncBytes (m : Memory) (n : Nat) : List U8 := (List.range n).map m.read

/-- The address of OUT_BUF[i] (rule R82). -/
def outAddress (i : Nat) : Nat := 256 + 2 * i

/-- OUT_BUF[i], OUT_BUF[i+1], … written with the samples (rules R82 and R399). -/
def Memory.writeOut (m : Memory) (i : Nat) (ys : List S16) : Memory :=
  match ys with
  | [] => m
  | y :: rest => Memory.writeOut (m.write16 (outAddress i) y) (i + 1) rest

end Sys2Proof.Machine
end

