-- ==== Sys2Proof/Machine/Operands.lean ====
section
/-! DEFINITION. The operand forms of the commands (30_encoding.md rules R125, R130 to R136) and the checks
on them (60_exceptions.md rule R451): each function answers the operand a meaning works with, or
`none` where the rule names a fault; and the three read selects. -/

namespace Sys2Proof.Machine

open Sys2Proof.Config

/-! Extensions to the 32-bit response (rule R127). -/

/-- A signed 16-bit result, sign-extended. -/
def sext32 (v : S16) : U32 := v.signExtend 32

/-- An unsigned 16-bit result, zero-extended. -/
def zext32 (v : U16) : U32 := v.zeroExtend 32

/-- A flag as a response. -/
def flag32 (b : Bool) : U32 := if b then 1 else 0

/-- A code as a response; no code has more than 16 bits. -/
def nat32 (n : Nat) : U32 := BitVec.ofNat 32 n

/-! Indices and codes. -/

/-- SUB as an index below `n`; `none` is BAD_INDEX. -/
def indexBelow (n : Nat) (sub : BitVec 4) : Option (Fin n) :=
  if h : sub.toNat < n then some ⟨sub.toNat, h⟩ else none

/-- The parameter index of `p.set_parameter`. -/
def paramIndex (sub : BitVec 4) : Option (Fin 4) := indexBelow 4 sub
/-- The Excitation number of `e.*` (41_excitation.md rule R190). -/
def excIndex (sub : BitVec 4) : Option (Fin 4) := indexBelow 4 sub
/-- The Svf number of `s.*` (42_svf.md rule R210). -/
def svfIndex (sub : BitVec 4) : Option (Fin 3) := indexBelow 3 sub
/-- The channel of `dac.*` (48_host_port.md rule R434). -/
def dacChannel (sub : BitVec 4) : Option (Fin 2) := indexBelow 2 sub

/-- The control byte of `p.process`: its three bits, zero-extended (rule R130). -/
def controlByte (ctrl : BitVec 3) : U8 := ctrl.zeroExtend 8

/-- A function code (rule R131); `none` is BAD_ENUM. -/
def functionOf (code : U16) : Option FunctionCode :=
  match code.toNat with
  | 0 => some .bassDrum
  | 1 => some .snareDrum
  | 2 => some .fmDrum
  | 3 => some .highHat
  | 4 => some .pulseShaper
  | 5 => some .pulseRandomizer
  | 6 => some .bouncingBall
  | 7 => some .miniSequencer
  | 8 => some .multistageEnvelope
  | 9 => some .lfo
  | 10 => some .numberStation
  | 11 => some .tapLfo
  | _ => none

/-- A control-mode code (rule R132); `none` is BAD_ENUM. -/
def controlModeOf (code : U16) : Option ControlMode :=
  match code.toNat with
  | 0 => some .full
  | 1 => some .half
  | _ => none

/-- An Svf mode code (rule R133); `none` is BAD_ENUM. -/
def svfModeOf (code : U16) : Option SvfMode :=
  match code.toNat with
  | 0 => some .lp
  | 1 => some .bp
  | 2 => some .hp
  | 3 => some .peak
  | _ => none

/-- A shape code of the configuration (rule R135); `none` is BAD_ENUM. -/
def shapeOf (c : Params) (code : U16) : Option Nat :=
  if code.toNat < c.numShapes then some code.toNat else none

/-- A render size (47_oscillator.md rule R399); `none` is BAD_SIZE. -/
def renderSize (size : U16) : Option Nat :=
  if 1 ≤ size.toNat ∧ size.toNat ≤ 256 then some size.toNat else none

/-- The address of an 8-bit access (20_memory.md rule R83), or the cause of its fault. -/
def address8 (a : U16) : Except Cause Nat :=
  if mapped a.toNat then .ok a.toNat else .error .badAddress

/-- The address of a 16-bit access (rules R83 and R85), or the cause of its fault: both bytes are
checked for BAD_ADDRESS before the alignment (60_exceptions.md rule R455). -/
def address16 (a : U16) : Except Cause Nat :=
  if mapped a.toNat && mapped (a.toNat + 1) then
    if a.toNat % 2 = 0 then .ok a.toNat else .error .misaligned
  else .error .badAddress

/-! Read selects (rule R136); `none` is BAD_INDEX. -/

/-- `p.read` (46_processors.md rule R362); a count of ring cells that 32 bits do not hold is a free value
(DESIGN CHOICE, notes/assumptions/24.md). -/
def readChannel (c : Params) (p : Processor) (sel : BitVec 4) : Option U32 :=
  match sel.toNat with
  | 0 => some (nat32 p.function.code)
  | 1 => some (nat32 p.controlMode.code)
  | 2 => some (zext32 p.param.a0)
  | 3 => some (zext32 p.param.a1)
  | 4 => some (zext32 p.param.a2)
  | 5 => some (zext32 p.param.a3)
  | 6 => some (fit32 c .readCount (p.inRing.readable c.ringCapacity))
  | 7 => some (fit32 c .readCount (p.outRing.readable c.ringCapacity))
  | 8 => some (flag32 p.lfo.sync)
  | _ => none

/-- `o.read` (47_oscillator.md rule R401). -/
def readOscillator (o : Oscillator) (sel : BitVec 4) : Option U32 :=
  match sel.toNat with
  | 0 => some (nat32 o.shape)
  | 1 => some (sext32 o.pitch)
  | 2 => some (sext32 o.param.a0)
  | 3 => some (sext32 o.param.a1)
  | 4 => some o.phase
  | 5 => some o.phaseInc
  | 6 => some (flag32 o.strike)
  | 7 => some (flag32 o.firstRender)
  | 8 => some (nat32 o.prevShape)
  | _ => none

/-- `sys.status` (48_host_port.md rule R436). -/
def readSystem (y : System) (sel : BitVec 4) : Option U32 :=
  match sel.toNat with
  | 0 => some y.status
  | 1 => some (y.faultCmd.extractLsb' 0 32)
  | 2 => some (y.faultCmd.extractLsb' 32 32)
  | 3 => some y.rng
  | 4 => some (sext32 y.dacOffset.a0)
  | 5 => some (sext32 y.dacOffset.a1)
  | _ => none

end Sys2Proof.Machine
end

