-- ==== Sys2Proof/Machine/ExcitationCommands.lean ====
section
/-! DEFINITION. The meanings of the six `e.*` commands, the primitive port onto the oscillator's four
Excitations (41_excitation.md section 2). -/

namespace Sys2Proof.Machine

open Sys2Proof.Config

/-- An `e.*` command: BAD_INDEX for SUB 4 to 15 (rule R190), else `effect` on the instance named. -/
def onExc (i : Instr) (k : BitVec 4) (s : State) (effect : Fin 4 → State) : State :=
  whenRunning s
    (match excIndex k with
     | none => raiseFault .badIndex (encode i) s
     | some n => effect n)

/-- `e.init` (rule R191). -/
def eInit (k : BitVec 4) (s : State) : State :=
  onExc (.eInit k) k s fun n => (s.withExc n excInit).ok 0

/-- `e.set_delay` (rule R192). -/
def eSetDelay (k : BitVec 4) (delay : U16) (s : State) : State :=
  onExc (.eSetDelay k delay) k s fun n => (s.withExc n (excSetDelay (s.osc.exc.get n) delay)).ok 0

/-- `e.set_decay` (rule R193). -/
def eSetDecay (k : BitVec 4) (decay : U16) (s : State) : State :=
  onExc (.eSetDecay k decay) k s fun n => (s.withExc n (excSetDecay (s.osc.exc.get n) decay)).ok 0

/-- `e.trigger` (rule R194). -/
def eTrigger (k : BitVec 4) (level : S32) (s : State) : State :=
  onExc (.eTrigger k level) k s fun n => (s.withExc n (excTrigger (s.osc.exc.get n) level)).ok 0

/-- `e.process` (rule R195). -/
def eProcess (c : Params) (k : BitVec 4) (s : State) : State :=
  onExc (.eProcess k) k s fun n =>
    let (e, value, free) := excProcess c (s.osc.exc.get n) s.freeCount
    { (s.withExc n e).ok value with freeCount := free }

/-- `e.done` (rule R196): no state changes. -/
def eDone (k : BitVec 4) (s : State) : State :=
  onExc (.eDone k) k s fun n => s.ok (flag32 (excDone (s.osc.exc.get n)))

/-- e.init -/
def execEInit (k : BitVec 4) (s : State) : Host.Outcome State Fault Refusal := .next (eInit k s)

/-- e.set_delay -/
def execESetDelay (k : BitVec 4) (delay : U16) (s : State) : Host.Outcome State Fault Refusal :=
  .next (eSetDelay k delay s)

/-- e.set_decay -/
def execESetDecay (k : BitVec 4) (decay : U16) (s : State) : Host.Outcome State Fault Refusal :=
  .next (eSetDecay k decay s)

/-- e.trigger -/
def execETrigger (k : BitVec 4) (level : S32) (s : State) : Host.Outcome State Fault Refusal :=
  .next (eTrigger k level s)

/-- e.process -/
def execEProcess (k : BitVec 4) (s : State) : Host.Outcome State Fault Refusal := .next (eProcess cfg k s)

/-- e.done -/
def execEDone (k : BitVec 4) (s : State) : Host.Outcome State Fault Refusal := .next (eDone k s)

end Sys2Proof.Machine
end

