-- ==== Sys2Proof/Machine/OscillatorCommands.lean ====
section
/-! DEFINITION. The meanings of the seven `o.*` commands (47_oscillator.md). Only `o.render` runs a
renderer; every setter only stores (rule R390). -/

namespace Sys2Proof.Machine

open Sys2Proof.Config

/-- `o.init` (rule R391): SYNC_BUF and OUT_BUF are not changed. -/
def oInit (c : Params) (s : State) : State := whenRunning s ((s.withOsc (oscInit c)).ok 0)

/-- `o.set_shape` (rule R392): nothing but the selector changes. -/
def oSetShape (c : Params) (code : U16) (s : State) : State :=
  whenRunning s
    (match shapeOf c code with
     | none => raiseFault .badEnum (encode (.oSetShape code)) s
     | some shape => (s.withOsc { s.osc with shape := shape }).ok 0)

/-- `o.set_parameters` (rule R393). -/
def oSetParameters (p1 p2 : S16) (s : State) : State :=
  whenRunning s ((s.withOsc { s.osc with param := ⟨p1, p2⟩ }).ok 0)

/-- `o.set_pitch` (rule R394). -/
def oSetPitch (c : Params) (pitch : S16) (s : State) : State :=
  whenRunning s ((s.withOsc { s.osc with pitch := smoothPitch c s.osc.pitch pitch }).ok 0)

/-- `o.strike` (rule R395). -/
def oStrike (s : State) : State := whenRunning s ((s.withOsc { s.osc with strike := true }).ok 0)

/-- The state after a render of `n` samples, but for the response (rule R399). -/
def renderState (c : Params) (n : Nat) (s : State) : State :=
  let (o, ys, draws) := oscRender c s.osc (s.hostPort.syncBytes n) n s.draws
  ((s.withOsc o).withHostPort (s.hostPort.writeOut 0 ys)).withDraws draws

/-- `o.render` (rule R399). -/
def oRender (c : Params) (size : U16) (s : State) : State :=
  whenRunning s
    (match renderSize size with
     | none => raiseFault .badSize (encode (.oRender size)) s
     | some n => (renderState c n s).ok 0)

/-- `o.read` (rule R401). -/
def oRead (sel : BitVec 4) (s : State) : State :=
  whenRunning s
    (match readOscillator s.osc sel with
     | none => raiseFault .badIndex (encode (.oRead sel)) s
     | some v => s.ok v)

/-- o.init -/
def execOInit (s : State) : Host.Outcome State Fault Refusal := .next (oInit cfg s)

/-- o.set_shape -/
def execOSetShape (code : U16) (s : State) : Host.Outcome State Fault Refusal := .next (oSetShape cfg code s)

/-- o.set_parameters -/
def execOSetParameters (p1 p2 : S16) (s : State) : Host.Outcome State Fault Refusal :=
  .next (oSetParameters p1 p2 s)

/-- o.set_pitch -/
def execOSetPitch (pitch : S16) (s : State) : Host.Outcome State Fault Refusal := .next (oSetPitch cfg pitch s)

/-- o.strike -/
def execOStrike (s : State) : Host.Outcome State Fault Refusal := .next (oStrike s)

/-- o.render -/
def execORender (size : U16) (s : State) : Host.Outcome State Fault Refusal := .next (oRender cfg size s)

/-- o.read -/
def execORead (sel : BitVec 4) (s : State) : Host.Outcome State Fault Refusal := .next (oRead sel s)

end Sys2Proof.Machine
end

