-- ==== Sys2Proof/Machine/Processors.lean ====
section
/-! DEFINITION. The meanings of the seven `p.*` commands (46_processors.md section 3). Each is the
command's rule on a configuration, and `exec…` is it on the block's own. -/

namespace Sys2Proof.Machine

open Sys2Proof.Config

/-- `p.init` (rule R354): the ring flags in `S.status` are not cleared. -/
def pInit (c : Params) (ch : Chan) (s : State) : State :=
  whenRunning s ((s.withProc ch (channelInit c)).ok 0)

/-- `p.set_function` (rule R355). -/
def pSetFunction (c : Params) (ch : Chan) (code : U16) (s : State) : State :=
  whenRunning s
    (match functionOf code with
     | none => raiseFault .badEnum (encode (.pSetFunction ch code)) s
     | some f => (s.withProc ch (channelSetFunction c f (s.proc ch))).ok 0)

/-- `p.set_parameter` (rule R358). -/
def pSetParameter (c : Params) (ch : Chan) (index : BitVec 4) (value : U16) (s : State) : State :=
  whenRunning s
    (match paramIndex index with
     | none => raiseFault .badIndex (encode (.pSetParameter ch index value)) s
     | some i => (s.withProc ch (channelSetParameter c i value (s.proc ch))).ok 0)

/-- `p.set_control_mode` (rule R359). -/
def pSetControlMode (c : Params) (ch : Chan) (code : U16) (s : State) : State :=
  whenRunning s
    (match controlModeOf code with
     | none => raiseFault .badEnum (encode (.pSetControlMode ch code)) s
     | some m => (s.withProc ch (channelSetControlMode c m (s.proc ch))).ok 0)

/-- The state after a channel's part of a command, but for the response: the channel, the draws and
the ring flags. -/
def State.withResult {α : Type} (s : State) (ch : Chan) (r : ChannelResult α) : State :=
  ((s.withProc ch r.p).withDraws r.draws).withStatus (statusOnRing s.sys.status ch r.events)

/-- `p.process` (rule R360). -/
def pProcess (c : Params) (ch : Chan) (ctrl : BitVec 3) (s : State) : State :=
  let r := channelProcess c (controlByte ctrl) (s.proc ch) s.draws
  whenRunning s ((s.withResult ch r).ok (sext32 r.value))

/-- `p.buffer` (rule R361). -/
def pBuffer (c : Params) (ch : Chan) (s : State) : State :=
  let r := channelBuffer c (s.proc ch) s.draws
  whenRunning s ((s.withResult ch r).ok (flag32 r.value))

/-- `p.read` (rule R362). -/
def pRead (c : Params) (ch : Chan) (sel : BitVec 4) (s : State) : State :=
  whenRunning s
    (match readChannel c (s.proc ch) sel with
     | none => raiseFault .badIndex (encode (.pRead ch sel)) s
     | some v => s.ok v)

/-- p.init -/
def execPInit (ch : Chan) (s : State) : Host.Outcome State Fault Refusal := .next (pInit cfg ch s)

/-- p.set_function -/
def execPSetFunction (ch : Chan) (code : U16) (s : State) : Host.Outcome State Fault Refusal :=
  .next (pSetFunction cfg ch code s)

/-- p.set_parameter -/
def execPSetParameter (ch : Chan) (index : BitVec 4) (value : U16) (s : State) :
    Host.Outcome State Fault Refusal :=
  .next (pSetParameter cfg ch index value s)

/-- p.set_control_mode -/
def execPSetControlMode (ch : Chan) (code : U16) (s : State) : Host.Outcome State Fault Refusal :=
  .next (pSetControlMode cfg ch code s)

/-- p.process -/
def execPProcess (ch : Chan) (ctrl : BitVec 3) (s : State) : Host.Outcome State Fault Refusal :=
  .next (pProcess cfg ch ctrl s)

/-- p.buffer -/
def execPBuffer (ch : Chan) (s : State) : Host.Outcome State Fault Refusal := .next (pBuffer cfg ch s)

/-- p.read -/
def execPRead (ch : Chan) (sel : BitVec 4) (s : State) : Host.Outcome State Fault Refusal :=
  .next (pRead cfg ch sel s)

end Sys2Proof.Machine
end

