-- ==== Sys2Proof/Machine/SvfCommands.lean ====
section
/-! DEFINITION. The meanings of the six `s.*` commands, the primitive port onto the oscillator's three
Svfs (42_svf.md section 2). -/

namespace Sys2Proof.Machine

open Sys2Proof.Config

/-- An `s.*` command: BAD_INDEX for SUB 3 to 15 (rule R210), else `effect` on the instance named. -/
def onSvf (i : Instr) (k : BitVec 4) (s : State) (effect : Fin 3 → State) : State :=
  whenRunning s
    (match svfIndex k with
     | none => raiseFault .badIndex (encode i) s
     | some n => effect n)

/-- `s.init` (rule R211). -/
def sInit (k : BitVec 4) (s : State) : State :=
  onSvf (.sInit k) k s fun n => (s.withSvf n svfInit).ok 0

/-- `s.set_frequency` (rule R212). -/
def sSetFrequency (k : BitVec 4) (frequency : S16) (s : State) : State :=
  onSvf (.sSetFrequency k frequency) k s fun n =>
    (s.withSvf n (svfSetFrequency (s.osc.svf.get n) frequency)).ok 0

/-- `s.set_resonance` (rule R213). -/
def sSetResonance (k : BitVec 4) (resonance : S16) (s : State) : State :=
  onSvf (.sSetResonance k resonance) k s fun n =>
    (s.withSvf n (svfSetResonance (s.osc.svf.get n) resonance)).ok 0

/-- `s.set_punch` (rule R214). -/
def sSetPunch (k : BitVec 4) (punch : U16) (s : State) : State :=
  onSvf (.sSetPunch k punch) k s fun n => (s.withSvf n (svfSetPunch (s.osc.svf.get n) punch)).ok 0

/-- `s.set_mode` (rule R215): BAD_INDEX before BAD_ENUM (60_exceptions.md rule R455). -/
def sSetMode (k : BitVec 4) (code : U16) (s : State) : State :=
  onSvf (.sSetMode k code) k s fun n =>
    match svfModeOf code with
    | none => raiseFault .badEnum (encode (.sSetMode k code)) s
    | some m => (s.withSvf n (svfSetMode (s.osc.svf.get n) m)).ok 0

/-- `s.process` (rule R216). -/
def sProcess (c : Params) (k : BitVec 4) (x : S16) (s : State) : State :=
  onSvf (.sProcess k x) k s fun n =>
    let (v, y) := svfProcess c (s.osc.svf.get n) x.toInt
    (s.withSvf n v).ok (sext32 y)

/-- s.init -/
def execSInit (k : BitVec 4) (s : State) : Host.Outcome State Fault Refusal := .next (sInit k s)

/-- s.set_frequency -/
def execSSetFrequency (k : BitVec 4) (frequency : S16) (s : State) : Host.Outcome State Fault Refusal :=
  .next (sSetFrequency k frequency s)

/-- s.set_resonance -/
def execSSetResonance (k : BitVec 4) (resonance : S16) (s : State) : Host.Outcome State Fault Refusal :=
  .next (sSetResonance k resonance s)

/-- s.set_punch -/
def execSSetPunch (k : BitVec 4) (punch : U16) (s : State) : Host.Outcome State Fault Refusal :=
  .next (sSetPunch k punch s)

/-- s.set_mode -/
def execSSetMode (k : BitVec 4) (code : U16) (s : State) : Host.Outcome State Fault Refusal :=
  .next (sSetMode k code s)

/-- s.process -/
def execSProcess (k : BitVec 4) (x : S16) (s : State) : Host.Outcome State Fault Refusal :=
  .next (sProcess cfg k x s)

end Sys2Proof.Machine
end

