-- ==== Sys2Proof/Machine/SystemCommands.lean ====
section
/-! DEFINITION. The meanings of the system unit's commands: the DAC transform, the host port, the status
readback and the reset command (48_host_port.md). -/

namespace Sys2Proof.Machine

open Sys2Proof.Config

/-- The bound of the DAC transform: [0, 65535], as 90_conflicts.md C3 settles it; the other reading is
kept as a reading of the operation (DAC_CLAMP, 93_implementation_defined.md). -/
def dacBound (clamp : DacClamp) (v : Int) : U32 :=
  match clamp with
  | .unsigned16 => BitVec.ofInt 32 (clampU16 v)
  | .signed16 => BitVec.ofInt 32 (clip16 v)

/-- `DacCode` (rule R434). -/
def dacTransform (clamp : DacClamp) (value offset : S16) : U32 :=
  dacBound clamp (32767 - value.toInt + offset.toInt)

/-- `dac.code` (rule R434): no state changes. -/
def dacCode (clamp : DacClamp) (ch : BitVec 4) (value : S16) (s : State) : State :=
  whenRunning s
    (match dacChannel ch with
     | none => raiseFault .badIndex (encode (.dacCode ch value)) s
     | some n => s.ok (dacTransform clamp value (s.sys.dacOffset.get n)))

/-- `dac.set_offset` (rule R435). -/
def dacSetOffset (ch : BitVec 4) (offset : S16) (s : State) : State :=
  whenRunning s
    (match dacChannel ch with
     | none => raiseFault .badIndex (encode (.dacSetOffset ch offset)) s
     | some n => (s.withDacOffset n offset).ok 0)

/-- `m.read8` (rule R430). -/
def mRead8 (a : U16) (s : State) : State :=
  whenRunning s
    (match address8 a with
     | .error cause => raiseFault cause (encode (.mRead8 a)) s
     | .ok n => s.ok ((s.hostPort.read n).zeroExtend 32))

/-- `m.write8` (rule R431). -/
def mWrite8 (a : U16) (data : U8) (s : State) : State :=
  whenRunning s
    (match address8 a with
     | .error cause => raiseFault cause (encode (.mWrite8 a data)) s
     | .ok n => (s.withHostPort (s.hostPort.write n data)).ok 0)

/-- `m.read16` (rule R432). -/
def mRead16 (a : U16) (s : State) : State :=
  whenRunning s
    (match address16 a with
     | .error cause => raiseFault cause (encode (.mRead16 a)) s
     | .ok n => s.ok (zext32 (s.hostPort.read16 n)))

/-- `m.write16` (rule R433). -/
def mWrite16 (a : U16) (data : U16) (s : State) : State :=
  whenRunning s
    (match address16 a with
     | .error cause => raiseFault cause (encode (.mWrite16 a data)) s
     | .ok n => (s.withHostPort (s.hostPort.write16 n data)).ok 0)

/-- `sys.status` (rule R436): accepted while halted (60_exceptions.md rule R453). -/
def sysStatus (sel : BitVec 4) (s : State) : State :=
  match readSystem s.sys sel with
  | none => raiseFault .badIndex (encode (.sysStatus sel)) s
  | some v => s.ok v

/-- `sys.reset` (rule R437): accepted while halted. -/
def sysReset (c : Params) (s : State) : State := (resetAction c s).ok 0

/-- dac.code -/
def execDacCode (ch : BitVec 4) (value : S16) (s : State) : Host.Outcome State Fault Refusal :=
  .next (dacCode .unsigned16 ch value s)

/-- dac.set_offset -/
def execDacSetOffset (ch : BitVec 4) (offset : S16) (s : State) : Host.Outcome State Fault Refusal :=
  .next (dacSetOffset ch offset s)

/-- m.read8 -/
def execMRead8 (a : U16) (s : State) : Host.Outcome State Fault Refusal := .next (mRead8 a s)

/-- m.write8 -/
def execMWrite8 (a : U16) (data : U8) (s : State) : Host.Outcome State Fault Refusal :=
  .next (mWrite8 a data s)

/-- m.read16 -/
def execMRead16 (a : U16) (s : State) : Host.Outcome State Fault Refusal := .next (mRead16 a s)

/-- m.write16 -/
def execMWrite16 (a : U16) (data : U16) (s : State) : Host.Outcome State Fault Refusal :=
  .next (mWrite16 a data s)

/-- sys.status -/
def execSysStatus (sel : BitVec 4) (s : State) : Host.Outcome State Fault Refusal := .next (sysStatus sel s)

/-- sys.reset -/
def execSysReset (s : State) : Host.Outcome State Fault Refusal := .next (sysReset cfg s)

end Sys2Proof.Machine
end

