-- ==== Sys2Proof/Machine/Dispatch.lean ====
section
/-! DEFINITION. The meaning of every command: one arm per constructor, one call per arm. -/

namespace Sys2Proof.Machine

/-- The outcome of a decoded command. -/
def exec (i : Instr) (s : State) : Host.Outcome State Fault Refusal :=
  match i with
  | .pInit ch => Sys2Proof.Machine.execPInit ch s
  | .pSetFunction ch code => Sys2Proof.Machine.execPSetFunction ch code s
  | .pSetParameter ch index value => Sys2Proof.Machine.execPSetParameter ch index value s
  | .pSetControlMode ch code => Sys2Proof.Machine.execPSetControlMode ch code s
  | .pProcess ch ctrl => Sys2Proof.Machine.execPProcess ch ctrl s
  | .pBuffer ch => Sys2Proof.Machine.execPBuffer ch s
  | .pRead ch sel => Sys2Proof.Machine.execPRead ch sel s
  | .oInit => Sys2Proof.Machine.execOInit s
  | .oSetShape code => Sys2Proof.Machine.execOSetShape code s
  | .oSetParameters p1 p2 => Sys2Proof.Machine.execOSetParameters p1 p2 s
  | .oSetPitch pitch => Sys2Proof.Machine.execOSetPitch pitch s
  | .oStrike => Sys2Proof.Machine.execOStrike s
  | .oRender size => Sys2Proof.Machine.execORender size s
  | .oRead sel => Sys2Proof.Machine.execORead sel s
  | .eInit k => Sys2Proof.Machine.execEInit k s
  | .eSetDelay k delay => Sys2Proof.Machine.execESetDelay k delay s
  | .eSetDecay k decay => Sys2Proof.Machine.execESetDecay k decay s
  | .eTrigger k level => Sys2Proof.Machine.execETrigger k level s
  | .eProcess k => Sys2Proof.Machine.execEProcess k s
  | .eDone k => Sys2Proof.Machine.execEDone k s
  | .sInit k => Sys2Proof.Machine.execSInit k s
  | .sSetFrequency k frequency => Sys2Proof.Machine.execSSetFrequency k frequency s
  | .sSetResonance k resonance => Sys2Proof.Machine.execSSetResonance k resonance s
  | .sSetPunch k punch => Sys2Proof.Machine.execSSetPunch k punch s
  | .sSetMode k code => Sys2Proof.Machine.execSSetMode k code s
  | .sProcess k x => Sys2Proof.Machine.execSProcess k x s
  | .dacCode ch value => Sys2Proof.Machine.execDacCode ch value s
  | .dacSetOffset ch offset => Sys2Proof.Machine.execDacSetOffset ch offset s
  | .mRead8 a => Sys2Proof.Machine.execMRead8 a s
  | .mWrite8 a data => Sys2Proof.Machine.execMWrite8 a data s
  | .mRead16 a => Sys2Proof.Machine.execMRead16 a s
  | .mWrite16 a data => Sys2Proof.Machine.execMWrite16 a data s
  | .sysStatus sel => Sys2Proof.Machine.execSysStatus sel s
  | .sysReset => Sys2Proof.Machine.execSysReset s

end Sys2Proof.Machine
end

