-- ==== Sys2Proof/Machine/Fetch.lean ====
section
/-! DEFINITION. How a command reaches the block. It fetches nothing (10_state.md rule R31): the host issues
commands and the block performs them one at a time in their one global order (20_memory.md rule R91).
`pending` holds the commands issued and not yet performed, the next one first. -/

namespace Sys2Proof.Machine

/-- The OP of a command word (30_encoding.md rule R121). -/
def opOf (w : Command) : U8 := (fieldsOf w).op

/-- The OPs a halted block still decodes: `sys.status` and `sys.reset` (60_exceptions.md rule R453). -/
def acceptedHalted (w : Command) : Bool := opOf w == 0x60 || opOf w == 0x61

/-- What taking the next command comes to. -/
inductive Taken where
  /-- No command is pending: the block does nothing (rule R469). -/
  | idle
  /-- The command was settled without running it: refused while halted, or illegal. -/
  | settled (s : State)
  /-- The command decodes and is to run in this state. -/
  | run (i : Instr) (s : State)

/-- Take the next command: refuse it while halted without decoding it (rule R453), else decode it and
take the fault its word is illegal for (rule R451). -/
def takeCommand (s : State) : Taken :=
  match s.pending with
  | [] => .idle
  | w :: rest =>
    let s1 : State := { s with pending := rest }
    if s1.halted && !acceptedHalted w then .settled (s1.respond .halted 0)
    else
      match decode w with
      | .error cause => .settled (raiseFault cause w s1)
      | .ok i => .run i s1

/-- The state with a command issued ahead of every other: it is the next to be performed. -/
def issueFirst (s : State) (w : Command) : State := { s with pending := w :: s.pending }

end Sys2Proof.Machine
end

