-- ==== Sys2Proof/Machine/Step.lean ====
section
/-! DEFINITION. One step of the block: it performs one command whole (20_memory.md rule R91), or nothing
when none is pending (60_exceptions.md rule R469). -/

namespace Sys2Proof.Machine

/-- One step. -/
def step (s : State) : Host.Outcome State Fault Refusal :=
  match takeCommand s with
  | .idle => .next s
  | .settled s' => .next s'
  | .run i s' => exec i s'

/-- The state with the command word given by the low `nbits` bits of `w` issued, so that the next step
performs exactly it (notes/assumptions/1.md). -/
def State.withFetchWord (s : State) (nbits w : Nat) : State :=
  issueFirst s (BitVec.ofNat 64 (w % 2 ^ nbits))

end Sys2Proof.Machine
end

