-- ==== Sys2Proof/WellFormed.lean ====
section
/-! DEFINITION. Which decoded commands are legal: the operand conditions of 60_exceptions.md rule R451,
command by command, in the order of rule R455, stated apart from the checks the meanings make
(Machine/Operands.lean); Laws/Operands.lean proves that the two agree. -/

namespace Sys2Proof

open Sys2Proof.Machine (Cause)

/-- The cause of the first check that fails. -/
def firstFailing (checks : List (Bool × Cause)) : Option Cause :=
  match checks with
  | [] => none
  | (passes, cause) :: rest => if passes then firstFailing rest else some cause

/-- SUB below a bound, else BAD_INDEX. -/
def subBelow (sub : BitVec 4) (bound : Nat) : Bool × Cause := (decide (sub.toNat < bound), .badIndex)

/-- A code below a bound, else BAD_ENUM. -/
def codeBelow (code : U16) (bound : Nat) : Bool × Cause := (decide (code.toNat < bound), .badEnum)

/-- An address in SYNC_BUF or OUT_BUF, else BAD_ADDRESS (20_memory.md rule R81). -/
def addressMapped (a : Nat) : Bool × Cause := (decide (a < 768), .badAddress)

/-- An even address, else MISALIGNED (rule R85). -/
def addressEven (a : Nat) : Bool × Cause := (decide (a % 2 = 0), .misaligned)

/-- The fault a command's operands raise, if any (rule R451's table). The shape codes are those of the
configuration `p`. -/
def Instr.operandFault (p : Config.Params) (i : Instr) : Option Cause :=
  match i with
  | .pInit _ => none
  | .pSetFunction _ code => firstFailing [codeBelow code 12]
  | .pSetParameter _ index _ => firstFailing [subBelow index 4]
  | .pSetControlMode _ code => firstFailing [codeBelow code 2]
  | .pProcess _ _ => none
  | .pBuffer _ => none
  | .pRead _ sel => firstFailing [subBelow sel 9]
  | .oInit => none
  | .oSetShape code => firstFailing [codeBelow code p.numShapes]
  | .oSetParameters _ _ => none
  | .oSetPitch _ => none
  | .oStrike => none
  | .oRender size => firstFailing [(decide (1 ≤ size.toNat ∧ size.toNat ≤ 256), .badSize)]
  | .oRead sel => firstFailing [subBelow sel 9]
  | .eInit k => firstFailing [subBelow k 4]
  | .eSetDelay k _ => firstFailing [subBelow k 4]
  | .eSetDecay k _ => firstFailing [subBelow k 4]
  | .eTrigger k _ => firstFailing [subBelow k 4]
  | .eProcess k => firstFailing [subBelow k 4]
  | .eDone k => firstFailing [subBelow k 4]
  | .sInit k => firstFailing [subBelow k 3]
  | .sSetFrequency k _ => firstFailing [subBelow k 3]
  | .sSetResonance k _ => firstFailing [subBelow k 3]
  | .sSetPunch k _ => firstFailing [subBelow k 3]
  | .sSetMode k code => firstFailing [subBelow k 3, codeBelow code 4]
  | .sProcess k _ => firstFailing [subBelow k 3]
  | .dacCode ch _ => firstFailing [subBelow ch 2]
  | .dacSetOffset ch _ => firstFailing [subBelow ch 2]
  | .mRead8 a => firstFailing [addressMapped a.toNat]
  | .mWrite8 a _ => firstFailing [addressMapped a.toNat]
  | .mRead16 a => firstFailing [addressMapped a.toNat, addressMapped (a.toNat + 1), addressEven a.toNat]
  | .mWrite16 a _ => firstFailing [addressMapped a.toNat, addressMapped (a.toNat + 1), addressEven a.toNat]
  | .sysStatus sel => firstFailing [subBelow sel 6]
  | .sysReset => none

/-- The command's operands are all legal. -/
def Instr.wellFormed (p : Config.Params) (i : Instr) : Bool := (i.operandFault p).isNone

end Sys2Proof
end

