-- ==== Sys2Proof/Safety.lean ====
section
/-! DEFINITION. The terms in which statements about the block are made: what a fault entry leaves, what
stays unchanged, the invariants, and runs of one record over many samples. -/

namespace Sys2Proof.Machine

open Sys2Proof.Config

/-! Frames. A byte of memory is compared through its read. -/

/-- Every byte of the host-port space reads the same. -/
def SameMemory (s t : State) : Prop := ∀ a, t.hostPort.read a = s.hostPort.read a

/-- Nothing but the response, and the parts named by the other frames, differs: the system unit, the
issued commands and the free values drawn. -/
def SameSystem (s t : State) : Prop :=
  t.sys = s.sys ∧ t.pending = s.pending ∧ t.freeCount = s.freeCount

/-- Both Processors channels are unchanged. -/
def SameChannels (s t : State) : Prop := t.p0 = s.p0 ∧ t.p1 = s.p1

/-- Nothing but the response differs. -/
def OnlyResponds (s t : State) : Prop :=
  SameSystem s t ∧ SameChannels s t ∧ t.osc = s.osc ∧ SameMemory s t

/-- Nothing but the response and the oscillator differs. -/
def OnlyOscillator (s t : State) : Prop := SameSystem s t ∧ SameChannels s t ∧ SameMemory s t

/-- Nothing but the response and Excitation `k` of the oscillator differs, and that one is `e`. -/
def OnlyExcitation (k : Fin 4) (e : Excitation) (s t : State) : Prop :=
  OnlyOscillator s t ∧ t.osc = { s.osc with exc := t.osc.exc } ∧ t.osc.exc.get k = e ∧
  ∀ j, j ≠ k → t.osc.exc.get j = s.osc.exc.get j

/-- Nothing but the response and Svf `k` of the oscillator differs, and that one is `v`. -/
def OnlySvf (k : Fin 3) (v : Svf) (s t : State) : Prop :=
  OnlyOscillator s t ∧ t.osc = { s.osc with svf := t.osc.svf } ∧ t.osc.svf.get k = v ∧
  ∀ j, j ≠ k → t.osc.svf.get j = s.osc.svf.get j

/-- The other channel. -/
def Chan.other (ch : Chan) : Chan :=
  match ch with
  | .ch0 => .ch1
  | .ch1 => .ch0

/-- What no `p.*` command on channel `ch` touches: the other channel, the oscillator, the host port,
the DAC offsets, the recorded command, the issued commands. -/
def OutsideChannelSame (ch : Chan) (s t : State) : Prop :=
  t.proc (Chan.other ch) = s.proc (Chan.other ch) ∧ t.osc = s.osc ∧ SameMemory s t ∧
  t.sys.dacOffset = s.sys.dacOffset ∧ t.sys.faultCmd = s.sys.faultCmd ∧ t.pending = s.pending

/-- Two channels have the same rings. -/
def SameRings (p q : Processor) : Prop := q.inRing = p.inRing ∧ q.outRing = p.outRing

/-- `t` is `s` after the fault entry of 60_exceptions.md rule R452 for a cause and a command word. -/
def TookFault (cause : Cause) (word : Command) (s t : State) : Prop :=
  statusFaulted t.sys.status = true ∧ (statusCause t.sys.status).toNat = cause.code ∧
  (∀ b, b ≠ 0 → ¬ (4 ≤ b ∧ b ≤ 7) → t.sys.status.getLsbD b = s.sys.status.getLsbD b) ∧
  t.sys.faultCmd = word ∧
  t.response = ⟨.fault, BitVec.ofNat 32 cause.code⟩ ∧
  t.sys.dacOffset = s.sys.dacOffset ∧ t.sys.rng = s.sys.rng ∧ SameChannels s t ∧ t.osc = s.osc ∧
  SameMemory s t ∧ t.pending = s.pending ∧ t.freeCount = s.freeCount

/-- `exec` answers with the fault entry for a cause. -/
def Faults (i : Instr) (s : State) (cause : Cause) : Prop :=
  ∃ t, exec i s = .next t ∧ TookFault cause (encode i) s t

/-- The cause a command word is illegal for under a configuration, if any: the checks on the word, then
those on the operands (60_exceptions.md rules R451 and R455). -/
def commandFault (p : Params) (w : Command) : Option Cause :=
  match decode w with
  | .error cause => some cause
  | .ok i => i.operandFault p

/-! The opcode map read by its columns (30_encoding.md rules R123 and R126), apart from the decoder. -/

/-- The assigned OPs. -/
def assignedOps : List Nat :=
  [0x10, 0x11, 0x12, 0x13, 0x14, 0x15, 0x16, 0x20, 0x21, 0x22, 0x23, 0x24, 0x25, 0x26,
   0x30, 0x31, 0x32, 0x33, 0x34, 0x35, 0x40, 0x41, 0x42, 0x43, 0x44, 0x45,
   0x50, 0x51, 0x58, 0x59, 0x5A, 0x5B, 0x60, 0x61]

/-- The UNITs of an assigned OP: 0 and 1 for `p.*`, 2 for `o.*`, `e.*` and `s.*`, 3 for the rest. -/
def unitAllowed (op unit : Nat) : Bool :=
  if op < 0x20 then decide (unit < 2) else if op < 0x50 then unit == 2 else unit == 3

/-- The OPs whose SUB is an operand. -/
def subIsOperand : List Nat :=
  [0x12, 0x16, 0x26, 0x30, 0x31, 0x32, 0x33, 0x34, 0x35, 0x40, 0x41, 0x42, 0x43, 0x44, 0x45, 0x50, 0x51, 0x60]

/-- The OPs without an operand in A. -/
def noOperandA : List Nat :=
  [0x10, 0x15, 0x16, 0x20, 0x24, 0x26, 0x30, 0x34, 0x35, 0x40, 0x60, 0x61]

/-- The OPs with an operand of 16 bits in B. -/
def fullOperandB : List Nat := [0x22, 0x33, 0x5B]

/-- The must-be-zero bits of an assigned OP (rule R126), as a word with a 1 in each. -/
def mustBeZero (op : Nat) : Command :=
  wordOf
    { op := 0
      unit := 0
      sub := if op ∈ subIsOperand then 0 else 0xF
      rsv := 0xFFFF
      a := if op ∈ noOperandA then 0xFFFF else if op = 0x14 then 0xFFF8 else 0
      b := if op ∈ fullOperandB then 0 else if op = 0x59 then 0xFF00 else 0xFFFF }

/-! Channels. -/

/-- The voice records of a channel that are not those of the functions listed are the same. -/
def OtherRecordsSame (touched : List FunctionCode) (p q : Processor) : Prop :=
  (.bassDrum ∉ touched → q.bd = p.bd) ∧ (.snareDrum ∉ touched → q.sd = p.sd) ∧
  (.fmDrum ∉ touched → q.fm = p.fm) ∧ (.highHat ∉ touched → q.hh = p.hh) ∧
  (.pulseShaper ∉ touched → q.ps = p.ps) ∧ (.pulseRandomizer ∉ touched → q.pr = p.pr) ∧
  (.bouncingBall ∉ touched → q.bb = p.bb) ∧ (.miniSequencer ∉ touched → q.ms = p.ms) ∧
  (.multistageEnvelope ∉ touched → q.env = p.env) ∧
  (.lfo ∉ touched → .tapLfo ∉ touched → q.lfo = p.lfo) ∧ (.numberStation ∉ touched → q.ns = p.ns)

/-- The functions whose records a Configure from function `f` may touch: its own, and both the snare's
and the hi-hat's where the hysteresis may switch (46_processors.md rule R357). -/
def configureTouches (f : FunctionCode) : List FunctionCode :=
  if f = .snareDrum ∨ f = .highHat then [.snareDrum, .highHat] else [f]

/-- The function `f'` a Configure leaves when it finds function `f` and the parameters `q` (rule R357). -/
def HysteresisRule (f f' : FunctionCode) (q : Quad U16) : Prop :=
  (f = .snareDrum → 65000 < q.a1.toNat → 65000 < q.a2.toNat → f' = .highHat) ∧
  (f = .snareDrum → q.a1.toNat ≤ 65000 ∨ q.a2.toNat ≤ 65000 → f' = .snareDrum) ∧
  (f = .highHat → q.a1.toNat < 64500 ∨ q.a2.toNat < 64500 → f' = .snareDrum) ∧
  (f = .highHat → 64500 ≤ q.a1.toNat → 64500 ≤ q.a2.toNat → f' = .highHat) ∧
  (f ≠ .snareDrum → f ≠ .highHat → f' = f)

/-- Nothing but channel `ch` and the response differs. -/
def OnlyChannel (ch : Chan) (s t : State) : Prop := OutsideChannelSame ch s t ∧ SameSystem s t

/-- The signal state of an Excitation is the same: all but its delay and decay. -/
def SameExcSignal (e e' : Excitation) : Prop :=
  e'.counter = e.counter ∧ e'.state = e.state ∧ e'.level = e.level

/-- The signal state of a resonator drum is the same: its pulses, its integrators, its low-pass and its
extra state. -/
def SameDrumSignal {κ : Type} (d d' : Drum κ) : Prop :=
  (∀ j, SameExcSignal (d.pulse.get j) (d'.pulse.get j)) ∧
  (∀ j, (d'.res.get j).lp = (d.res.get j).lp ∧ (d'.res.get j).bp = (d.res.get j).bp) ∧ d'.lp = d.lp ∧
  d'.x = d.x

/-- The signal state of every voice of a channel is the same (43_voices_percussion.md rule R232). -/
def SameSignal (p q : Processor) : Prop :=
  SameDrumSignal p.bd q.bd ∧ SameDrumSignal p.sd q.sd ∧ q.fm = { p.fm with k := q.fm.k } ∧
  q.hh.x = p.hh.x ∧ q.ps = { p.ps with k := q.ps.k } ∧ q.pr = { p.pr with k := q.pr.k } ∧
  q.bb.position = p.bb.position ∧ q.bb.velocity = p.bb.velocity ∧ q.ms.x = p.ms.x ∧
  q.env = { p.env with k := q.env.k } ∧
  q.lfo.phase = p.lfo.phase ∧ q.lfo.count = p.lfo.count ∧ q.lfo.noisePrev = p.lfo.noisePrev ∧
  q.lfo.noiseNext = p.lfo.noiseNext ∧ q.lfo.pp = p.lfo.pp ∧ q.lfo.sync = p.lfo.sync ∧
  (p.lfo.sync = true → q.lfo.phaseInc = p.lfo.phaseInc) ∧
  q.ns = { p.ns with k := q.ns.k }

/-! Knobs: what the Configure of each function writes from the parameter registers and the control mode. -/

/-- The four knobs of a voice that in HALF takes the first two registers and two constants (rule R232). -/
def KnobsAre (mode : ControlMode) (param k : Quad U16) (half2 half3 : U16) : Prop :=
  (mode = .full → ∀ i, k.get i = param.get i) ∧
  (mode = .half → k.get 0 = param.get 0 ∧ k.get 1 = param.get 1 ∧ k.get 2 = half2 ∧ k.get 3 = half3)

/-- A drum's Excitation and resonator settings are those `BD_Apply` or `SD_Apply` gives it, where it gives
one. -/
def SettingsAre {κ : Type} (o : DrumOpen κ) (d : Drum κ) : Prop :=
  (∀ j v, (o.apply d).delay.get j = some v → (d.pulse.get j).delay = v) ∧
  (∀ j v, (o.apply d).decay.get j = some v → (d.pulse.get j).decay = v) ∧
  (∀ j v, ((o.apply d).res.get j).frequency = some v → (d.res.get j).frequency = v) ∧
  (∀ j v, ((o.apply d).res.get j).resonance = some v → (d.res.get j).resonance = v) ∧
  (∀ j v, ((o.apply d).res.get j).punch = some v → (d.res.get j).punch = v) ∧
  ∀ j v, ((o.apply d).res.get j).mode = some v → (d.res.get j).mode = v

/-- The BassDrum's knobs (43_voices_percussion.md rule R236). -/
def BassKnobsAre (c : Params) (mode : ControlMode) (param : Quad U16) (d : BassDrum) : Prop :=
  (mode = .full → d.knobs.frequency = param.get 0 ∧ d.knobs.punch = param.get 1 ∧
    d.knobs.tone = param.get 2 ∧ d.knobs.decay = param.get 3) ∧
  (mode = .half → d.knobs.frequency = c.bdHalfFrequency ∧ d.knobs.punch = c.bdHalfPunch ∧
    d.knobs.decay = param.get 1 ∧
    (c.bdHalfToneBase.toNat + (param.get 0).toNat / 2 < 65536 →
      d.knobs.tone.toNat = c.bdHalfToneBase.toNat + (param.get 0).toNat / 2)) ∧
  d.lpCoef = c.bd.toneCoef d.knobs.tone ∧ SettingsAre c.bd d

/-- The SnareDrum's knobs (rule R241). -/
def SnareKnobsAre (c : Params) (mode : ControlMode) (param : Quad U16) (d : SnareDrum) : Prop :=
  (mode = .full → d.knobs.frequency = param.get 0 ∧ d.knobs.tone = param.get 1 ∧
    d.knobs.snappy = param.get 2 ∧ d.knobs.decay = param.get 3) ∧
  (mode = .half → d.knobs.frequency = c.sdHalfFrequency ∧ d.knobs.tone = param.get 0 ∧
    d.knobs.snappy = param.get 1 ∧ d.knobs.decay = c.sdHalfDecay) ∧
  d.lpCoef = c.sd.toneCoef d.knobs.tone ∧ SettingsAre c.sd d

/-- The PulseShaper's knobs (44_voices_pulse.md rule R273). -/
def ShaperKnobsAre (c : Params) (mode : ControlMode) (param k : Quad U16) : Prop :=
  (mode = .full → ∀ i, k.get i = param.get i) ∧
  (mode = .half → k.get 0 = c.ps.halfK0 ∧ k.get 1 = param.get 0 ∧ k.get 2 = c.ps.halfK2 ∧ k.get 3 = param.get 1)

/-- The code of an Lfo shape (30_encoding.md rule R134). -/
def LfoShape.code (s : LfoShape) : Nat :=
  match s with
  | .sine => 0
  | .triangle => 1
  | .square => 2
  | .steps => 3
  | .noise => 4

/-- The Lfo's knobs, shape, slopes and free-running increment (45_voices_generators.md rule R322). -/
def LfoKnobsAre (c : Params) (mode : ControlMode) (param : Quad U16) (l : Lfo) : Prop :=
  KnobsAre mode param l.k c.lfo.halfK2 65535 ∧ LfoShape.code l.shape = (l.k.get 1).toNat * 5 / 65536 ∧
  (l.up, l.down) = c.lfo.slopes (l.k.get 2) ∧ (l.sync = false → l.phaseInc = c.lfo.rateInc (l.k.get 0))

/-- The record of a channel's function is configured from the channel's registers and mode. -/
def Configured (c : Params) (p : Processor) : Prop :=
  match p.function with
  | .bassDrum => BassKnobsAre c p.controlMode p.param p.bd
  | .snareDrum => SnareKnobsAre c p.controlMode p.param p.sd
  | .fmDrum => KnobsAre p.controlMode p.param p.fm.k c.fm.halfK2 c.fm.halfK3
  | .highHat => KnobsAre p.controlMode p.param p.hh.k c.hh.halfK2 c.hh.halfK3
  | .pulseShaper => ShaperKnobsAre c p.controlMode p.param p.ps.k
  | .pulseRandomizer => KnobsAre p.controlMode p.param p.pr.k c.pr.halfK2 c.pr.halfK3
  | .bouncingBall =>
    KnobsAre p.controlMode p.param p.bb.k c.bb.halfK2 c.bb.halfK3 ∧ p.bb.gravity = c.bb.gravity (p.bb.k.get 0)
  | .miniSequencer => KnobsAre p.controlMode p.param p.ms.k c.ms.halfK2 c.ms.halfK3
  | .multistageEnvelope => KnobsAre p.controlMode p.param p.env.k c.env.halfK2 c.env.halfK3
  | .lfo => LfoKnobsAre c p.controlMode p.param p.lfo
  | .numberStation => KnobsAre p.controlMode p.param p.ns.k c.ns.halfK2 c.ns.halfK3
  | .tapLfo => LfoKnobsAre c p.controlMode p.param p.lfo

/-! Invariants. -/

/-- Both integrators of the record are s16 values (10_state.md rule R42). -/
abbrev svfInRange (v : Svf) : Prop :=
  -32768 ≤ v.lp.toInt ∧ v.lp.toInt ≤ 32767 ∧ -32768 ≤ v.bp.toInt ∧ v.bp.toInt ≤ 32767

/-- A ring has its cells and its indices are in range (10_state.md rule R37). -/
def RingOk {α : Type} (n : Nat) (g : Ring α) : Prop := g.cells.length = n ∧ g.r < n ∧ g.w < n

/-- A channel's rings and pools have their sizes (rule R37; 44_voices_pulse.md rules R271 and R280). -/
def ChannelOk (c : Params) (p : Processor) : Prop :=
  RingOk c.ringCapacity p.inRing ∧ RingOk c.ringCapacity p.outRing ∧
  p.ps.slot.length = 32 ∧ p.pr.slot.length = 32

/-- The oscillator's selectors are legal and its memories have their sizes (rules R33, R38); its
Excitations and Svfs are in their ranges (rules R41 and R42). -/
def OscillatorOk (c : Params) (o : Oscillator) : Prop :=
  o.shape < c.numShapes ∧ o.prevShape < c.numShapes ∧
  o.union.length = c.unionBytes ∧ o.scratch.length = c.scratchBytes ∧
  (∀ k, (o.exc.get k).counter ≤ 65536) ∧ ∀ k, svfInRange (o.svf.get k)

/-- The status word is one rule R34 allows: unlisted bits 0; a cause 1 to 8 exactly when FAULTED. -/
def StatusOk (st : U32) : Prop :=
  (∀ b, (1 ≤ b ∧ b ≤ 3) ∨ 16 ≤ b → st.getLsbD b = false) ∧
  (statusFaulted st = false → (statusCause st).toNat = 0) ∧
  (statusFaulted st = true → 1 ≤ (statusCause st).toNat ∧ (statusCause st).toNat ≤ 8)

/-- The memory is in canonical form and lists only SYNC_BUF and OUT_BUF. -/
def MemoryOk (m : Memory) : Prop := m.wf ∧ ∀ x ∈ m, x.1 < 768

/-- The block's invariant. -/
structure State.Inv (c : Params) (s : State) : Prop where
  status : StatusOk s.sys.status
  ch0 : ChannelOk c s.p0
  ch1 : ChannelOk c s.p1
  osc : OscillatorOk c s.osc
  memory : MemoryOk s.hostPort

/-- The index coupling of 46_processors.md rule R363. -/
def Coupled (p : Processor) : Prop := p.inRing.w = p.outRing.r ∧ p.inRing.r = p.outRing.w

/-- Both channels' ring indices are coupled. -/
def State.RingsCoupled (s : State) : Prop := Coupled s.p0 ∧ Coupled s.p1

/-! Runs of one record. -/

/-- An Excitation after `n` calls of `Exc_Process`, and the next free index. -/
def excRun (c : Params) (n : Nat) (e : Excitation) (free : Nat) : Excitation × Nat :=
  match n with
  | 0 => (e, free)
  | n + 1 =>
    let (e1, free1) := excRun c n e free
    let (e2, _, free2) := excProcess c e1 free1
    (e2, free2)

/-- The values of a run of `Svf_Process` over a list of inputs, and the record after it. -/
def svfRun (c : Params) (v : Svf) (xs : List S16) : Svf × List S16 :=
  match xs with
  | [] => (v, [])
  | x :: rest =>
    let (v1, y) := svfProcess c v x.toInt
    let (v2, ys) := svfRun c v1 rest
    (v2, y :: ys)

/-- A resonator drum and its draws after the samples of a list of control bytes. -/
def drumRun {κ : Type} (c : Params) (o : DrumOpen κ) (d : Drum κ) (ctrl : List U8) (s : Draws) :
    Drum κ × Draws :=
  match ctrl with
  | [] => (d, s)
  | b :: rest =>
    let (d1, _, s1) := drumSample c o d b s
    drumRun c o d1 rest s1

end Sys2Proof.Machine
end

