-- ==== Sys2Proof/Certificates/Slice0/Obligations.lean ====
section
/-! DEFINITION. The statements about the block, in the order of OBLIGATIONS.json. A statement about a
command gives the next state it answers when the block is not halted and its operands are legal, what
that state holds, and what it leaves unchanged; the frames are those of Safety.lean. -/

open Sys2Proof Sys2Proof.Machine Sys2Proof.Config

/-! The command word. -/

/-- Every command decodes from its own word (30_encoding.md rules R121 to R126). -/
def Obligations.DecodeEncode : Prop := ∀ i : Instr, decode (encode i) = .ok i

/-- A word that decodes is the word of the command it decodes to: no bit of it is ignored (rules R126
and R129). -/
def Obligations.EncodeDecode : Prop := ∀ (w : Command) (i : Instr), decode w = .ok i → encode i = w

/-- The decoder rejects exactly the words the opcode map's columns exclude, by the first failing check
(rules R122, R123, R126; 60_exceptions.md rule R455). -/
def Obligations.DecodeRejections : Prop :=
  ∀ w : Command,
    let op := (w.extractLsb' 56 8).toNat
    let unit := (w.extractLsb' 52 4).toNat
    (decode w = .error .illegalOpcode ↔ op ∉ assignedOps) ∧
    (decode w = .error .badUnit ↔ op ∈ assignedOps ∧ unitAllowed op unit = false) ∧
    (decode w = .error .reservedNonzero ↔
      op ∈ assignedOps ∧ unitAllowed op unit = true ∧ w &&& mustBeZero op ≠ 0) ∧
    ((∃ i, decode w = .ok i) ↔ op ∈ assignedOps ∧ unitAllowed op unit = true ∧ w &&& mustBeZero op = 0)

/-- The words of rule R141's examples, and one of each other family from 95_test_vectors.md, decode to
the commands they stand for. -/
def Obligations.SpecWords : Prop :=
  decode 0x1110000000010000 = .ok (.pSetFunction .ch1 1) ∧
  decode 0x33220000FFFFFC18 = .ok (.eTrigger 2 (BitVec.ofInt 32 (-1000))) ∧
  decode 0x1400000000030000 = .ok (.pProcess .ch0 3) ∧
  decode 0x222000004000FFFF = .ok (.oSetParameters 16384 (BitVec.ofInt 16 (-1))) ∧
  decode 0x4121000020000000 = .ok (.sSetFrequency 1 8192) ∧
  decode 0x51310000FFF60000 = .ok (.dacSetOffset 1 (BitVec.ofInt 16 (-10))) ∧
  decode 0x5B30000000000100 = .ok (.mWrite16 0 0x100) ∧
  decode 0x6130000000000000 = .ok .sysReset

/-! Steps, faults and the halted state. -/

/-- A step performs the decoded command at the state from which that command has been taken. The field of
the commands issued and not yet performed is the model's own (notes/assumptions/1.md). -/
def Obligations.StepRunsDecoded : Prop :=
  ∀ (s : State) (w : Command) (rest : List Command) (i : Instr),
    s.pending = w :: rest → decode w = .ok i → step s = exec i { s with pending := rest }

/-- A command that fails a check, of its word or of its operands, does the fault entry and nothing else
(60_exceptions.md rules R452 and R454). -/
def Obligations.FaultEntry : Prop :=
  ∀ (s : State) (w : Command) (rest : List Command) (cause : Cause),
    s.pending = w :: rest → s.halted = false → commandFault cfg w = some cause →
    ∃ t, step s = .next t ∧ TookFault cause w { s with pending := rest } t

/-- The operand checks of rule R451's table, command by command, with the order of rule R455. -/
def Obligations.OperandFaults : Prop :=
  ∀ s : State, s.halted = false →
    (∀ ch code, 12 ≤ code.toNat → Faults (.pSetFunction ch code) s .badEnum) ∧
    (∀ ch index value, 4 ≤ index.toNat → Faults (.pSetParameter ch index value) s .badIndex) ∧
    (∀ ch code, 2 ≤ code.toNat → Faults (.pSetControlMode ch code) s .badEnum) ∧
    (∀ ch sel, 9 ≤ sel.toNat → Faults (.pRead ch sel) s .badIndex) ∧
    (∀ code, cfg.numShapes ≤ code.toNat → Faults (.oSetShape code) s .badEnum) ∧
    (∀ size, size.toNat = 0 ∨ 256 < size.toNat → Faults (.oRender size) s .badSize) ∧
    (∀ sel, 9 ≤ sel.toNat → Faults (.oRead sel) s .badIndex) ∧
    (∀ k, 4 ≤ k.toNat → Faults (.eInit k) s .badIndex ∧ Faults (.eProcess k) s .badIndex ∧
      Faults (.eDone k) s .badIndex ∧ (∀ d, Faults (.eSetDelay k d) s .badIndex) ∧
      (∀ d, Faults (.eSetDecay k d) s .badIndex) ∧ (∀ l, Faults (.eTrigger k l) s .badIndex)) ∧
    (∀ k, 3 ≤ k.toNat → Faults (.sInit k) s .badIndex ∧ (∀ f, Faults (.sSetFrequency k f) s .badIndex) ∧
      (∀ r, Faults (.sSetResonance k r) s .badIndex) ∧ (∀ p, Faults (.sSetPunch k p) s .badIndex) ∧
      (∀ m, Faults (.sSetMode k m) s .badIndex) ∧ (∀ x, Faults (.sProcess k x) s .badIndex)) ∧
    (∀ k m, k.toNat < 3 → 4 ≤ m.toNat → Faults (.sSetMode k m) s .badEnum) ∧
    (∀ ch v, 2 ≤ ch.toNat → Faults (.dacCode ch v) s .badIndex) ∧
    (∀ ch v, 2 ≤ ch.toNat → Faults (.dacSetOffset ch v) s .badIndex) ∧
    (∀ a, 768 ≤ a.toNat → Faults (.mRead8 a) s .badAddress) ∧
    (∀ a v, 768 ≤ a.toNat → Faults (.mWrite8 a v) s .badAddress) ∧
    (∀ a, 767 ≤ a.toNat → Faults (.mRead16 a) s .badAddress) ∧
    (∀ a v, 767 ≤ a.toNat → Faults (.mWrite16 a v) s .badAddress) ∧
    (∀ a, a.toNat < 767 → a.toNat % 2 = 1 → Faults (.mRead16 a) s .misaligned) ∧
    (∀ a v, a.toNat < 767 → a.toNat % 2 = 1 → Faults (.mWrite16 a v) s .misaligned) ∧
    (∀ sel, 6 ≤ sel.toNat → Faults (.sysStatus sel) s .badIndex)

/-- A halted block (rule R453): any command but `sys.status` and `sys.reset` gets (HALTED, 0) and changes
nothing; one of those two that fails a check gets (FAULT, cause) and changes nothing; one that passes
is performed. -/
def Obligations.HaltedState : Prop :=
  ∀ (s : State) (w : Command) (rest : List Command), s.pending = w :: rest → s.halted = true →
    (opOf w ≠ 0x60 → opOf w ≠ 0x61 →
      step s = .next { s with pending := rest, response := ⟨.halted, 0⟩ }) ∧
    (opOf w = 0x60 ∨ opOf w = 0x61 → ∀ cause, commandFault cfg w = some cause →
      step s = .next { s with pending := rest, response := ⟨.fault, BitVec.ofNat 32 cause.code⟩ }) ∧
    (∀ sel v, w = encode (.sysStatus sel) → readSystem s.sys sel = some v →
      step s = .next { s with pending := rest, response := ⟨.ok, v⟩ }) ∧
    (w = encode .sysReset →
      ∃ t, step s = .next t ∧ t.halted = false ∧ t.response = ⟨.ok, 0⟩ ∧ t.sys = State.reset.sys ∧
        t.p0 = State.reset.p0 ∧ t.p1 = State.reset.p1 ∧ t.osc = State.reset.osc ∧
        t.hostPort = State.reset.hostPort)

/-- Faults do not nest (rules R456 and R457): a step of a halted block leaves the cause and the recorded
word of the first fault, or performs `sys.reset`. -/
def Obligations.FaultsDoNotNest : Prop :=
  ∀ s t : State, s.halted = true → step s = .next t →
    (t.halted = true → t.sys.status = s.sys.status ∧ t.sys.faultCmd = s.sys.faultCmd) ∧
    (t.halted = false → ∃ rest, s.pending = encode .sysReset :: rest)

/-- Every step answers a next state: no state and no command stops the model. -/
def Obligations.StepAnswersNext : Prop := ∀ s : State, ∃ t, step s = .next t

/-- A block with no command pending does nothing (rule R469; notes/assumptions/1.md). -/
def Obligations.IdleStep : Prop := ∀ s : State, s.pending = [] → step s = .next s

/-- FAULTED and the ring flags stay set until a reset, which clears the status (10_state.md rule R34). -/
def Obligations.StatusSticky : Prop :=
  ∀ s t : State, step s = .next t →
    ((∀ rest, s.pending ≠ encode .sysReset :: rest) →
      ∀ b, b = 0 ∨ (8 ≤ b ∧ b ≤ 15) → s.sys.status.getLsbD b = true → t.sys.status.getLsbD b = true) ∧
    (∀ rest, s.pending = encode .sysReset :: rest → t.sys.status = 0)

/-! Reset and status. -/

/-- The state after reset (70_reset_and_hazards.md rule R482): every field of it, each voice record as its
Init leaves it, but for the BassDrum's, which rule R481 configures after its Init
(notes/assumptions/23.md). `response`, `pending` and `freeCount` are the model's own
(notes/assumptions/9.md). -/
def Obligations.ResetValues : Prop :=
  let s := State.reset
  s.sys.status = 0 ∧ s.sys.faultCmd = 0 ∧ s.sys.dacOffset = ⟨0, 0⟩ ∧ s.sys.rng = cfg.lcgSeed ∧
  (∀ ch, (s.proc ch).function = .bassDrum ∧ (s.proc ch).controlMode = .full ∧
    (s.proc ch).param = ⟨0, 0, 0, 0⟩ ∧ (s.proc ch).lfo.sync = false ∧
    (s.proc ch).inRing = ⟨List.replicate cfg.ringCapacity 0, 0, 0⟩ ∧
    (s.proc ch).outRing = ⟨List.replicate cfg.ringCapacity 0, 0, 0⟩ ∧
    (s.proc ch).bd = bassConfigure cfg (bassInit cfg) ⟨0, 0, 0, 0⟩ .full ∧
    (s.proc ch).sd = snareInit cfg ∧ (s.proc ch).fm = fmInit cfg ∧ (s.proc ch).hh = hatInit cfg ∧
    (s.proc ch).ps = shaperInit ∧ (s.proc ch).pr = randomizerInit ∧ (s.proc ch).bb = ballInit cfg ∧
    (s.proc ch).ms = sequencerInit cfg ∧ (s.proc ch).env = envelopeInit cfg ∧
    (s.proc ch).lfo = lfoInit cfg ∧ (s.proc ch).ns = stationInit cfg) ∧
  s.osc.shape = 0 ∧ s.osc.prevShape = 0 ∧ s.osc.firstRender = true ∧ s.osc.pitch = 0 ∧
  s.osc.param = ⟨0, 0⟩ ∧ s.osc.phase = 0 ∧ s.osc.phaseInc = 0 ∧ s.osc.strike = false ∧
  s.osc.union = List.replicate cfg.unionBytes 0 ∧ s.osc.scratch = List.replicate cfg.scratchBytes 0 ∧
  (∀ k, s.osc.exc.get k = ⟨0, 4093, 0, 0, 0⟩) ∧ (∀ k, s.osc.svf.get k = ⟨0, 0, 0, 0, 0, .lp⟩) ∧
  (∀ a, s.hostPort.read a = 0) ∧ s.halted = false

/-- `sys.reset` (48_host_port.md rule R437; 70_reset_and_hazards.md rule R481) from any state, halted or
not. -/
def Obligations.SysReset : Prop :=
  ∀ s : State, ∃ t, exec .sysReset s = .next t ∧ t.response = ⟨.ok, 0⟩ ∧
    t.sys = State.reset.sys ∧ t.p0 = State.reset.p0 ∧ t.p1 = State.reset.p1 ∧ t.osc = State.reset.osc ∧
    (∀ a, t.hostPort.read a = 0) ∧ t.halted = false

/-- `sys.status` (rule R436): each select responds with its field and changes nothing, halted or not; a
select of 6 or more faults, without a fault entry when the block is halted. -/
def Obligations.SysStatus : Prop :=
  ∀ s : State,
    exec (.sysStatus 0) s = .next { s with response := ⟨.ok, s.sys.status⟩ } ∧
    exec (.sysStatus 1) s = .next { s with response := ⟨.ok, s.sys.faultCmd.extractLsb' 0 32⟩ } ∧
    exec (.sysStatus 2) s = .next { s with response := ⟨.ok, s.sys.faultCmd.extractLsb' 32 32⟩ } ∧
    exec (.sysStatus 3) s = .next { s with response := ⟨.ok, s.sys.rng⟩ } ∧
    exec (.sysStatus 4) s = .next { s with response := ⟨.ok, (s.sys.dacOffset.get 0).signExtend 32⟩ } ∧
    exec (.sysStatus 5) s = .next { s with response := ⟨.ok, (s.sys.dacOffset.get 1).signExtend 32⟩ } ∧
    (∀ sel : BitVec 4, 6 ≤ sel.toNat →
      (s.halted = false → Faults (.sysStatus sel) s .badIndex) ∧
      (s.halted = true → exec (.sysStatus sel) s = .next { s with response := ⟨.fault, 4⟩ }))

/-! The DAC transform and the host port. -/

/-- `dac.code` (48_host_port.md rule R434; 90_conflicts.md C3). -/
def Obligations.DacCode : Prop :=
  ∀ (s : State) (ch : BitVec 4) (v : S16), s.halted = false →
    (∀ k : Fin 2, ch.toNat = k.val →
      ∃ t, exec (.dacCode ch v) s = .next t ∧ OnlyResponds s t ∧ t.response.kind = .ok ∧
        (t.response.value.toNat : Int) =
          max 0 (min 65535 (32767 - v.toInt + (s.sys.dacOffset.get k).toInt))) ∧
    (2 ≤ ch.toNat → Faults (.dacCode ch v) s .badIndex)

/-- `dac.set_offset` (rule R435). -/
def Obligations.DacSetOffset : Prop :=
  ∀ (s : State) (ch : BitVec 4) (off : S16), s.halted = false →
    (∀ k : Fin 2, ch.toNat = k.val →
      ∃ t, exec (.dacSetOffset ch off) s = .next t ∧ t.response = ⟨.ok, 0⟩ ∧
        t.sys.dacOffset.get k = off ∧ (∀ j, j ≠ k → t.sys.dacOffset.get j = s.sys.dacOffset.get j) ∧
        t.sys.status = s.sys.status ∧ t.sys.faultCmd = s.sys.faultCmd ∧ t.sys.rng = s.sys.rng ∧
        SameChannels s t ∧ t.osc = s.osc ∧ SameMemory s t ∧ t.pending = s.pending ∧
        t.freeCount = s.freeCount) ∧
    (2 ≤ ch.toNat → Faults (.dacSetOffset ch off) s .badIndex)

/-- `m.read8` and `m.read16` (rules R430 and R432): the byte, or the little-endian halfword,
zero-extended, and no change. -/
def Obligations.HostReads : Prop :=
  ∀ (s : State) (a : U16), s.halted = false →
    (a.toNat < 768 →
      ∃ t, exec (.mRead8 a) s = .next t ∧ OnlyResponds s t ∧
        t.response = ⟨.ok, (s.hostPort.read a.toNat).zeroExtend 32⟩) ∧
    (768 ≤ a.toNat → Faults (.mRead8 a) s .badAddress) ∧
    (a.toNat < 767 → a.toNat % 2 = 0 →
      ∃ t, exec (.mRead16 a) s = .next t ∧ OnlyResponds s t ∧ t.response.kind = .ok ∧
        t.response.value.toNat =
          (s.hostPort.read a.toNat).toNat + 256 * (s.hostPort.read (a.toNat + 1)).toNat) ∧
    (767 ≤ a.toNat → Faults (.mRead16 a) s .badAddress) ∧
    (a.toNat < 767 → a.toNat % 2 = 1 → Faults (.mRead16 a) s .misaligned)

/-- `m.write8` (rule R431): the byte named takes the data and every other byte is unchanged. -/
def Obligations.HostWrite8 : Prop :=
  ∀ (s : State) (a : U16) (data : U8), s.halted = false →
    (a.toNat < 768 → s.hostPort.wf →
      ∃ t, exec (.mWrite8 a data) s = .next t ∧ t.response = ⟨.ok, 0⟩ ∧
        t.hostPort.read a.toNat = data ∧ (∀ b, b ≠ a.toNat → t.hostPort.read b = s.hostPort.read b) ∧
        t.hostPort.wf ∧ SameSystem s t ∧ SameChannels s t ∧ t.osc = s.osc) ∧
    (768 ≤ a.toNat → Faults (.mWrite8 a data) s .badAddress)

/-- `m.write16` (rules R433 and R86): the two bytes named take the data's low and high bytes, and every
other byte is unchanged. -/
def Obligations.HostWrite16 : Prop :=
  ∀ (s : State) (a data : U16), s.halted = false →
    (a.toNat < 767 → a.toNat % 2 = 0 → s.hostPort.wf →
      ∃ t, exec (.mWrite16 a data) s = .next t ∧ t.response = ⟨.ok, 0⟩ ∧
        (t.hostPort.read a.toNat).toNat = data.toNat % 256 ∧
        (t.hostPort.read (a.toNat + 1)).toNat = data.toNat / 256 ∧
        (∀ b, b ≠ a.toNat → b ≠ a.toNat + 1 → t.hostPort.read b = s.hostPort.read b) ∧
        t.hostPort.wf ∧ SameSystem s t ∧ SameChannels s t ∧ t.osc = s.osc) ∧
    (767 ≤ a.toNat → Faults (.mWrite16 a data) s .badAddress) ∧
    (a.toNat < 767 → a.toNat % 2 = 1 → Faults (.mWrite16 a data) s .misaligned)

/-! Excitations. -/

/-- `e.init`, `e.set_delay`, `e.set_decay` and `e.trigger` (41_excitation.md rules R191 to R194). -/
def Obligations.ExcSetters : Prop :=
  ∀ (s : State) (sub : BitVec 4) (k : Fin 4), s.halted = false → sub.toNat = k.val →
    let e := s.osc.exc.get k
    (∃ t, exec (.eInit sub) s = .next t ∧ t.response = ⟨.ok, 0⟩ ∧
      OnlyExcitation k ⟨0, 4093, 0, 0, 0⟩ s t) ∧
    (∀ d, ∃ t, exec (.eSetDelay sub d) s = .next t ∧ t.response = ⟨.ok, 0⟩ ∧
      OnlyExcitation k { e with delay := d } s t) ∧
    (∀ d, ∃ t, exec (.eSetDecay sub d) s = .next t ∧ t.response = ⟨.ok, 0⟩ ∧
      OnlyExcitation k { e with decay := d } s t) ∧
    (∀ level, ∃ t, exec (.eTrigger sub level) s = .next t ∧ t.response = ⟨.ok, 0⟩ ∧
      OnlyExcitation k { e with level := level, counter := e.delay.toNat + 1 } s t)

/-- `e.process` (rule R195) inside the validity range of rule R200: decay, countdown, injection, and the
signed value where it is an s32, as it always is with a decay of at most 4096 (notes/assumptions/4.md). -/
def Obligations.ExcProcess : Prop :=
  ∀ (s : State) (sub : BitVec 4) (k : Fin 4), s.halted = false → sub.toNat = k.val →
    let e := s.osc.exc.get k
    let decayed := e.state.toNat * e.decay.toNat / 4096
    e.state.toNat * e.decay.toNat < 2 ^ 31 → e.state.toNat + e.level.toInt.natAbs < 2 ^ 31 →
    e.level.toInt ≠ -2 ^ 31 →
    ∃ t, exec (.eProcess sub) s = .next t ∧
      (let e' := t.osc.exc.get k
       e'.counter = e.counter - 1 ∧
       e'.state.toNat = (if e.counter = 1 then decayed + e.level.toInt.natAbs else decayed) ∧
       e' = { e with counter := e'.counter, state := e'.state } ∧
       (∀ j, j ≠ k → t.osc.exc.get j = s.osc.exc.get j) ∧ t.osc = { s.osc with exc := t.osc.exc } ∧
       t.sys = s.sys ∧ SameChannels s t ∧ SameMemory s t ∧ t.pending = s.pending ∧ t.response.kind = .ok ∧
       (e.counter ≠ 1 ∨ e.decay.toNat ≤ 4096 → e'.state.toNat < 2 ^ 31) ∧
       (e'.state.toNat < 2 ^ 31 →
         t.freeCount = s.freeCount ∧
         t.response.value.toInt =
           (if e.level.toInt < 0 then -(e'.state.toNat : Int) else (e'.state.toNat : Int))))

/-- `e.process` outside that range: it still completes, with the countdown of rule R195 and everything
else it leaves alone; only the new state and the value are free (rule R200). -/
def Obligations.ExcProcessBeyond : Prop :=
  ∀ (s : State) (sub : BitVec 4) (k : Fin 4), s.halted = false → sub.toNat = k.val →
    let e := s.osc.exc.get k
    excInRange e = false →
    ∃ t, exec (.eProcess sub) s = .next t ∧ t.response.kind = .ok ∧
      t.osc.exc.get k = { e with counter := e.counter - 1, state := (t.osc.exc.get k).state } ∧
      (∀ j, j ≠ k → t.osc.exc.get j = s.osc.exc.get j) ∧ t.osc = { s.osc with exc := t.osc.exc } ∧
      t.sys = s.sys ∧ SameChannels s t ∧ SameMemory s t ∧ t.pending = s.pending

/-- `e.done` (rule R196). -/
def Obligations.ExcDone : Prop :=
  ∀ (s : State) (sub : BitVec 4), s.halted = false →
    (∀ k : Fin 4, sub.toNat = k.val →
      ∃ t, exec (.eDone sub) s = .next t ∧ OnlyResponds s t ∧
        t.response = ⟨.ok, if (s.osc.exc.get k).counter = 0 then 1 else 0⟩) ∧
    (4 ≤ sub.toNat → Faults (.eDone sub) s .badIndex)

/-- The decay invariant (rule R198), for a record in the range of rule R200, which it does not leave. -/
def Obligations.ExcDecay : Prop :=
  ∀ (c : Params) (e : Excitation) (free : Nat),
    e.decay.toNat ≤ 4095 → e.counter = 0 → excInRange e = true →
    let r := excProcess c e free
    r.1.state.toNat = e.state.toNat * e.decay.toNat / 4096 ∧
    (0 < e.state.toNat → r.1.state.toNat < e.state.toNat) ∧ (e.state.toNat = 0 → r.1.state.toNat = 0) ∧
    r.2.1.toInt = (if e.level.toInt < 0 then -(r.1.state.toNat : Int) else (r.1.state.toNat : Int)) ∧
    r.1.level = e.level ∧ r.1.decay = e.decay ∧ r.1.counter = 0 ∧ excInRange r.1 = true

/-- Done timing (rule R199): from a trigger on, `done` is false before each of the first delay + 1 calls
and true after; the impulse is injected by call number delay + 1 and by no other. -/
def Obligations.ExcDoneTiming : Prop :=
  ∀ (c : Params) (e : Excitation) (level : S32) (free n : Nat),
    let e' := (excRun c n (excTrigger e level) free).1
    (excDone e' = true ↔ e.delay.toNat + 1 ≤ n) ∧
    (n = e.delay.toNat → excNextState e' = excDecayed e' + level.toInt.natAbs) ∧
    (n ≠ e.delay.toNat → excNextState e' = excDecayed e')

/-! Svfs. -/

/-- `s.init`, `s.set_frequency`, `s.set_resonance`, `s.set_punch` and `s.set_mode` (42_svf.md rules R211
to R215). -/
def Obligations.SvfSetters : Prop :=
  ∀ (s : State) (sub : BitVec 4) (k : Fin 3), s.halted = false → sub.toNat = k.val →
    let v := s.osc.svf.get k
    (∃ t, exec (.sInit sub) s = .next t ∧ t.response = ⟨.ok, 0⟩ ∧ OnlySvf k ⟨0, 0, 0, 0, 0, .lp⟩ s t) ∧
    (∀ f, ∃ t, exec (.sSetFrequency sub f) s = .next t ∧ t.response = ⟨.ok, 0⟩ ∧
      OnlySvf k { v with frequency := f } s t) ∧
    (∀ r, ∃ t, exec (.sSetResonance sub r) s = .next t ∧ t.response = ⟨.ok, 0⟩ ∧
      OnlySvf k { v with resonance := r } s t) ∧
    (∀ p, ∃ t, exec (.sSetPunch sub p) s = .next t ∧ t.response = ⟨.ok, 0⟩ ∧
      OnlySvf k { v with punch := p } s t) ∧
    (∀ (code : U16) (m : SvfMode),
      (code.toNat, m) ∈ [(0, SvfMode.lp), (1, SvfMode.bp), (2, SvfMode.hp), (3, SvfMode.peak)] →
      ∃ t, exec (.sSetMode sub code) s = .next t ∧ t.response = ⟨.ok, 0⟩ ∧
        OnlySvf k { v with mode := m } s t)

/-- `s.process` (rule R216): the three clipped stages in order, the integrators, and the mode's tap. -/
def Obligations.SvfProcess : Prop :=
  ∀ (s : State) (sub : BitVec 4) (k : Fin 3) (x : S16), s.halted = false → sub.toNat = k.val →
    let v := s.osc.svf.get k
    let coef := cfg.svfCoef v.frequency v.resonance v.punch v.lp v.bp
    let hp := clip16 (x.toInt - v.lp.toInt - (((coef.2.toNat : Int) * v.bp.toInt) >>> cfg.svfShift))
    let bp := clip16 (v.bp.toInt + (((coef.1.toNat : Int) * hp) >>> cfg.svfShift))
    let lp := clip16 (v.lp.toInt + (((coef.1.toNat : Int) * bp) >>> cfg.svfShift))
    ∃ t, exec (.sProcess sub x) s = .next t ∧
      (let v' := t.osc.svf.get k
       OnlySvf k { v with bp := v'.bp, lp := v'.lp } s t ∧ v'.bp.toInt = bp ∧ v'.lp.toInt = lp ∧
       t.response.kind = .ok ∧
       t.response.value.toInt =
         (match v.mode with
          | .lp => lp
          | .bp => bp
          | .hp => hp
          | .peak => clip16 (lp - hp)))

/-- The saturation invariant (rule R218): over any sequence of inputs, from any record, both integrators
are in [-32768, 32767] after the first call and stay there, and the tap of every call, as an integer, is in
that range and is the output. -/
def Obligations.SvfSaturation : Prop :=
  ∀ (c : Params) (v : Svf) (xs : List S16), xs ≠ [] ∨ svfInRange v →
    svfInRange (svfRun c v xs).1 ∧ (svfRun c v xs).2.length = xs.length ∧
    ∀ x : S16,
      let v' := (svfRun c v xs).1
      let coef := c.svfCoef v'.frequency v'.resonance v'.punch v'.lp v'.bp
      let stages := svfStages c.svfShift coef.1.toNat coef.2.toNat x.toInt v'.lp.toInt v'.bp.toInt
      let output := svfTap v'.mode stages.1 stages.2.1 stages.2.2
      (-32768 : Int) ≤ output ∧ output ≤ 32767 ∧
        ∃ y : S16, (svfRun c v (xs ++ [x])).2 = (svfRun c v xs).2 ++ [y] ∧ y.toInt = output

/-! Processors channels. -/

/-- `p.init` (46_processors.md rule R354): every register, ring and record initialised, then Configure;
the ring flags in the status are not cleared. -/
def Obligations.PInit : Prop :=
  ∀ (s : State) (ch : Chan), s.halted = false →
    ∃ t, exec (.pInit ch) s = .next t ∧ t.response = ⟨.ok, 0⟩ ∧ OnlyChannel ch s t ∧
      (t.proc ch).function = .bassDrum ∧ (t.proc ch).controlMode = .full ∧
      (∀ i, (t.proc ch).param.get i = 0) ∧
      (t.proc ch).inRing = ⟨List.replicate cfg.ringCapacity 0, 0, 0⟩ ∧
      (t.proc ch).outRing = ⟨List.replicate cfg.ringCapacity 0, 0, 0⟩ ∧
      (t.proc ch).bd = bassConfigure cfg (bassInit cfg) ⟨0, 0, 0, 0⟩ .full ∧
      (t.proc ch).sd = snareInit cfg ∧ (t.proc ch).fm = fmInit cfg ∧ (t.proc ch).hh = hatInit cfg ∧
      (t.proc ch).ps = shaperInit ∧ (t.proc ch).pr = randomizerInit ∧ (t.proc ch).bb = ballInit cfg ∧
      (t.proc ch).ms = sequencerInit cfg ∧ (t.proc ch).env = envelopeInit cfg ∧
      (t.proc ch).lfo = lfoInit cfg ∧ (t.proc ch).ns = stationInit cfg

/-- `p.set_function` (rule R355): the new voice is initialised, except between LFO and TAP_LFO, then
Configure runs; the rings, the parameters and the records of other functions are not touched. -/
def Obligations.PSetFunction : Prop :=
  ∀ (s : State) (ch : Chan) (code : U16) (f : FunctionCode), s.halted = false → code.toNat = f.code →
    let p := s.proc ch
    ∃ t, exec (.pSetFunction ch code) s = .next t ∧ t.response = ⟨.ok, 0⟩ ∧ OnlyChannel ch s t ∧
      (let q := t.proc ch
       SameRings p q ∧ q.param = p.param ∧ q.controlMode = p.controlMode ∧
       OtherRecordsSame (configureTouches f) p q ∧ HysteresisRule f q.function p.param ∧
       (f.usesLfo = false → q = configure cfg { initRecord cfg f p with function := f }) ∧
       (f.usesLfo = true → p.function.usesLfo = false →
         q = configure cfg { p with function := f, lfo := { lfoInit cfg with sync := f == .tapLfo } }) ∧
       (f.usesLfo = true → p.function.usesLfo = true →
         q = configure cfg { p with function := f, lfo := { p.lfo with sync := f == .tapLfo } }))

/-- A switch between LFO and TAP_LFO keeps the phase, the count, the noise segment and the predictor
(45_voices_generators.md rule R327); the increment too on the way to TAP_LFO, while on the way to LFO
the Configure gives it the free-running rate (rule R322; notes/assumptions/12.md). -/
def Obligations.LfoTempoKept : Prop :=
  ∀ (s : State) (ch : Chan) (code : U16) (f : FunctionCode), s.halted = false → code.toNat = f.code →
    f.usesLfo = true → (s.proc ch).function.usesLfo = true →
    ∃ t, exec (.pSetFunction ch code) s = .next t ∧
      (let l := (s.proc ch).lfo
       let l' := (t.proc ch).lfo
       l'.phase = l.phase ∧ l'.count = l.count ∧ l'.noisePrev = l.noisePrev ∧ l'.noiseNext = l.noiseNext ∧
       l'.pp = l.pp ∧ l'.sync = (f == .tapLfo) ∧ (f = .tapLfo → l'.phaseInc = l.phaseInc) ∧
       (f = .lfo → l'.phaseInc = cfg.lfo.rateInc l'.k.a0))

/-- `p.set_parameter` (rule R358): the register is written and Configure runs. -/
def Obligations.PSetParameter : Prop :=
  ∀ (s : State) (ch : Chan) (sub : BitVec 4) (i : Fin 4) (v : U16), s.halted = false → sub.toNat = i.val →
    let p := s.proc ch
    ∃ t, exec (.pSetParameter ch sub v) s = .next t ∧ t.response = ⟨.ok, 0⟩ ∧ OnlyChannel ch s t ∧
      (let q := t.proc ch
       q = configure cfg { p with param := p.param.set i v } ∧ q.param.get i = v ∧
       (∀ j, j ≠ i → q.param.get j = p.param.get j) ∧ SameRings p q ∧ q.controlMode = p.controlMode ∧
       OtherRecordsSame (configureTouches p.function) p q)

/-- `p.set_control_mode` (rule R359): the mode is written and Configure runs. -/
def Obligations.PSetControlMode : Prop :=
  ∀ (s : State) (ch : Chan) (code : U16) (m : ControlMode), s.halted = false → code.toNat = m.code →
    let p := s.proc ch
    ∃ t, exec (.pSetControlMode ch code) s = .next t ∧ t.response = ⟨.ok, 0⟩ ∧ OnlyChannel ch s t ∧
      (let q := t.proc ch
       q = configure cfg { p with controlMode := m } ∧ q.controlMode = m ∧ q.param = p.param ∧
       SameRings p q ∧ OtherRecordsSame (configureTouches p.function) p q)

/-- The snare/hi-hat hysteresis (rule R357) on each parameter write: which function it leaves, strictly
above 65000 and strictly below 64500, and that a switch initialises and configures the new voice. -/
def Obligations.HysteresisSwitch : Prop :=
  ∀ (s : State) (ch : Chan) (sub : BitVec 4) (i : Fin 4) (v : U16), s.halted = false → sub.toNat = i.val →
    let p := s.proc ch
    let q := p.param.set i v
    ∃ t, exec (.pSetParameter ch sub v) s = .next t ∧ HysteresisRule p.function (t.proc ch).function q ∧
      (p.function = .snareDrum → (t.proc ch).function = .highHat →
        (t.proc ch).hh = hatConfigure cfg (hatInit cfg) q p.controlMode ∧ (t.proc ch).sd = p.sd) ∧
      (p.function = .highHat → (t.proc ch).function = .snareDrum →
        (t.proc ch).sd = snareConfigure cfg (snareInit cfg) q p.controlMode ∧ (t.proc ch).hh = p.hh)

/-- `p.process` on an unbuffered function (rules R360 and R364): the voice's single-sample function is
called once, its sample is the response, and the rings and the status are untouched. -/
def Obligations.PProcessUnbuffered : Prop :=
  ∀ (s : State) (ch : Chan) (ctrl : BitVec 3), s.halted = false →
    (s.proc ch).function.buffered = false →
    ∃ t p y d, exec (.pProcess ch ctrl) s = .next t ∧
      processSample cfg (s.proc ch) (ctrl.zeroExtend 8) s.draws = some (p, y, d) ∧
      t.proc ch = p ∧ t.response = ⟨.ok, y.signExtend 32⟩ ∧ t.draws = d ∧
      SameRings (s.proc ch) p ∧ p.function = (s.proc ch).function ∧ p.param = (s.proc ch).param ∧
      p.controlMode = (s.proc ch).controlMode ∧ OtherRecordsSame [p.function] (s.proc ch) p ∧
      t.sys.status = s.sys.status ∧ OutsideChannelSame ch s t

/-- `p.process` on a buffered function (rules R360 and R351): the control byte goes into the input ring,
the response is the output ring's next cell, a full input ring sets IN_OVERRUN and an empty output ring
sets OUT_UNDERRUN, and no voice record is touched. -/
def Obligations.PProcessBuffered : Prop :=
  ∀ (s : State) (ch : Chan) (ctrl : BitVec 3), s.halted = false →
    (s.proc ch).function.buffered = true →
    let p := s.proc ch
    let n := cfg.ringCapacity
    ∃ t, exec (.pProcess ch ctrl) s = .next t ∧
      t.response = ⟨.ok, (p.outRing.cells.getD p.outRing.r 0).signExtend 32⟩ ∧
      t.proc ch =
        { p with
          inRing := ⟨p.inRing.cells.set p.inRing.w (ctrl.zeroExtend 8), p.inRing.r, (p.inRing.w + 1) % n⟩
          outRing := ⟨p.outRing.cells, (p.outRing.r + 1) % n, p.outRing.w⟩ } ∧
      (∀ b, t.sys.status.getLsbD b =
        (s.sys.status.getLsbD b || (decide (b = ringFlagBase ch + 1) && decide (p.inRing.writable n = 0)) ||
          (decide (b = ringFlagBase ch + 2) && decide (p.outRing.readable n = 0)))) ∧
      t.draws = s.draws ∧ OutsideChannelSame ch s t

/-- `p.buffer` (rule R361): nothing on an unbuffered function or without room for a block; else one block
of BLOCK_SIZE control bytes is read from the input ring, rendered, and written to the output ring, with
IN_UNDERRUN if the input ring held fewer. -/
def Obligations.PBuffer : Prop :=
  ∀ (s : State) (ch : Chan), s.halted = false → ChannelOk cfg (s.proc ch) →
    let p := s.proc ch
    let n := cfg.ringCapacity
    let b := cfg.blockSize
    ∃ t, exec (.pBuffer ch) s = .next t ∧
      (p.function.buffered = false ∨ p.outRing.writable n < b →
        t.response = ⟨.ok, 0⟩ ∧ OnlyResponds s t) ∧
      (p.function.buffered = true → b ≤ p.outRing.writable n →
        t.response = ⟨.ok, 1⟩ ∧ OutsideChannelSame ch s t ∧
        ∃ ctrl ys p' d,
          ctrl.length = b ∧ (∀ j < b, ctrl.getD j 0 = p.inRing.cells.getD ((p.inRing.r + j) % n) 0) ∧
          fillBuffer cfg { p with inRing := { p.inRing with r := (p.inRing.r + b) % n } } ctrl s.draws =
            some (p', ys, d) ∧
          ys.length = b ∧ t.proc ch = { p' with outRing := (t.proc ch).outRing } ∧ t.draws = d ∧
          (t.proc ch).outRing.r = p.outRing.r ∧ (t.proc ch).outRing.w = (p.outRing.w + b) % n ∧
          (∀ j < b, (t.proc ch).outRing.cells.getD ((p.outRing.w + j) % n) 0 = ys.getD j 0) ∧
          (∀ i, (∀ j < b, i ≠ (p.outRing.w + j) % n) →
            (t.proc ch).outRing.cells.getD i 0 = p.outRing.cells.getD i 0) ∧
          (∀ i, t.sys.status.getLsbD i =
            (s.sys.status.getLsbD i ||
              (decide (i = ringFlagBase ch) && decide (p.inRing.readable n < b)))))

/-- `p.read` (rule R362): each select responds with its field, zero-extended, and changes nothing. For a
count of ring cells of 2^32 or more (selects 6 and 7), which no rule narrows to the response, that the value
is free is the model's choice (notes/assumptions/24.md). -/
def Obligations.PRead : Prop :=
  ∀ (s : State) (ch : Chan), s.halted = false →
    let p := s.proc ch
    let reads (sel : BitVec 4) (v : U32) : Prop :=
      exec (.pRead ch sel) s = .next { s with response := ⟨.ok, v⟩ }
    reads 0 (BitVec.ofNat 32 p.function.code) ∧ reads 1 (BitVec.ofNat 32 p.controlMode.code) ∧
    reads 2 ((p.param.get 0).zeroExtend 32) ∧ reads 3 ((p.param.get 1).zeroExtend 32) ∧
    reads 4 ((p.param.get 2).zeroExtend 32) ∧ reads 5 ((p.param.get 3).zeroExtend 32) ∧
    (∃ v, reads 6 v ∧ (p.inRing.readable cfg.ringCapacity < 2 ^ 32 →
      v.toNat = p.inRing.readable cfg.ringCapacity)) ∧
    (∃ v, reads 7 v ∧ (p.outRing.readable cfg.ringCapacity < 2 ^ 32 →
      v.toNat = p.outRing.readable cfg.ringCapacity)) ∧
    reads 8 (if p.lfo.sync then 1 else 0) ∧
    (∀ sel : BitVec 4, 9 ≤ sel.toNat → Faults (.pRead ch sel) s .badIndex)

/-- The cells of a ring (rule R350): readable and writable are the differences modulo N, they sum to
N - 1, an empty ring has equal indices, and a full one has no writable cell. -/
def Obligations.RingCounts : Prop :=
  ∀ (α : Type) (n : Nat) (g : Machine.Ring α), RingOk n g →
    ((g.readable n : Int) = ((g.w : Int) - g.r) % n) ∧
    ((g.writable n : Int) = ((g.r : Int) - g.w - 1) % n) ∧ g.readable n + g.writable n = n - 1 ∧
    (g.r = g.w ↔ g.readable n = 0) ∧ (g.readable n = n - 1 ↔ g.writable n = 0)

/-- When a `p.process` on a buffered function sets a flag (rule R363), for coupled rings: none with at
least two samples queued, IN_OVERRUN with exactly one, OUT_UNDERRUN with none. -/
def Obligations.RingFlags : Prop :=
  ∀ (s : State) (ch : Chan) (ctrl : BitVec 3), s.halted = false →
    (s.proc ch).function.buffered = true → ChannelOk cfg (s.proc ch) → Coupled (s.proc ch) →
    let queued := (s.proc ch).outRing.readable cfg.ringCapacity
    ∃ t, exec (.pProcess ch ctrl) s = .next t ∧
      (2 ≤ queued → t.sys.status = s.sys.status) ∧
      (queued = 1 → ∀ b, t.sys.status.getLsbD b =
        (s.sys.status.getLsbD b || decide (b = ringFlagBase ch + 1))) ∧
      (queued = 0 → ∀ b, t.sys.status.getLsbD b =
        (s.sys.status.getLsbD b || decide (b = ringFlagBase ch + 2)))

/-! The oscillator. -/

/-- `o.init`, `o.set_shape`, `o.set_parameters` and `o.strike` (47_oscillator.md rules R391 to R393 and
R395): nothing but the oscillator changes, and of it only what the rule names. -/
def Obligations.OscSetters : Prop :=
  ∀ s : State, s.halted = false →
    (∃ t, exec .oInit s = .next t ∧ t.response = ⟨.ok, 0⟩ ∧ OnlyOscillator s t ∧
      t.osc =
        { shape := 0, prevShape := 0, firstRender := true, pitch := 0, param := ⟨0, 0⟩, phase := 0
          phaseInc := 0, strike := false, union := List.replicate cfg.unionBytes 0
          exc := Quad.same ⟨0, 4093, 0, 0, 0⟩, svf := Triple.same ⟨0, 0, 0, 0, 0, .lp⟩
          scratch := List.replicate cfg.scratchBytes 0 }) ∧
    (∀ code : U16, code.toNat < cfg.numShapes →
      ∃ t, exec (.oSetShape code) s = .next t ∧ t.response = ⟨.ok, 0⟩ ∧ OnlyOscillator s t ∧
        t.osc = { s.osc with shape := code.toNat }) ∧
    (∀ p1 p2 : S16, ∃ t, exec (.oSetParameters p1 p2) s = .next t ∧ t.response = ⟨.ok, 0⟩ ∧
      OnlyOscillator s t ∧ t.osc = { s.osc with param := ⟨p1, p2⟩ }) ∧
    (∃ t, exec .oStrike s = .next t ∧ t.response = ⟨.ok, 0⟩ ∧ OnlyOscillator s t ∧
      t.osc = { s.osc with strike := true })

/-- `o.set_pitch` (rule R394): smoothed when the old and the new pitch are both strictly above the
threshold, else stored; the result lies between the two. -/
def Obligations.OscSetPitch : Prop :=
  ∀ (s : State) (p : S16), s.halted = false →
    let old := s.osc.pitch.toInt
    let threshold := cfg.pitchSmoothThreshold.toInt
    ∃ t, exec (.oSetPitch p) s = .next t ∧ t.response = ⟨.ok, 0⟩ ∧ OnlyOscillator s t ∧
      t.osc = { s.osc with pitch := t.osc.pitch } ∧
      (threshold < old → threshold < p.toInt →
        t.osc.pitch.toInt = old + ((p.toInt - old) >>> cfg.pitchSmoothShift)) ∧
      (old ≤ threshold ∨ p.toInt ≤ threshold → t.osc.pitch = p) ∧
      min old p.toInt ≤ t.osc.pitch.toInt ∧ t.osc.pitch.toInt ≤ max old p.toInt

/-- The phase increment never falls as the pitch rises (rule R397 (a)). -/
def Obligations.PhaseIncrementMonotone : Prop :=
  ∀ (c : Params) (p q : S16), c.WellFormed → p.toInt ≤ q.toInt →
    (computePhaseIncrement c p).toNat ≤ (computePhaseIncrement c q).toNat

/-- An octave up doubles the phase increment, to within its last bit, below the table's start
(rule R397 (b)). -/
def Obligations.PhaseIncrementOctave : Prop :=
  ∀ (c : Params) (p q : S16), c.WellFormed → p.toInt < c.pitchTableStart.toInt →
    q.toInt = p.toInt + 1536 →
    (computePhaseIncrement c q).toNat = 2 * (computePhaseIncrement c p).toNat ∨
    (computePhaseIncrement c q).toNat = 2 * (computePhaseIncrement c p).toNat + 1

/-- `o.render` (rules R398 and R399): the shape init if the shape changed, the increment of the pitch,
one run of the shape's renderer, its results and what its calls leave in the oscillator, its samples in
OUT_BUF, and every other byte of the host port unchanged. That the Excitation and Svf records are left as
the renderer's calls of their functions leave them is the model's choice: rule R400 says only that it reads
them through these functions (notes/assumptions/15.md). -/
def Obligations.OscRender : Prop :=
  ∀ (s : State) (size : U16), s.halted = false → 1 ≤ size.toNat → size.toNat ≤ 256 →
    let n := size.toNat
    let o : Oscillator :=
      if s.osc.shape = s.osc.prevShape then s.osc
      else
        { s.osc with
          union := List.replicate cfg.unionBytes 0, scratch := List.replicate cfg.scratchBytes 0
          exc := Quad.same ⟨0, 4093, 0, 0, 0⟩, svf := Triple.same ⟨0, 0, 0, 0, 0, .lp⟩
          phase := 0, prevShape := s.osc.shape, firstRender := true }
    let inc := computePhaseIncrement cfg s.osc.pitch
    let run :=
      (cfg.renderShape s.osc.shape
        { phase := o.phase, phaseInc := inc, pitch := o.pitch, param := o.param, strike := o.strike
          firstRender := o.firstRender, union := o.union, scratch := o.scratch
          sync := (List.range n).map s.hostPort.read, size := n, rng := s.sys.rng }).run
        (renderCall cfg) ⟨o.exc, o.svf, s.freeCount⟩
    let out := run.1
    let units := run.2
    ∃ t, exec (.oRender size) s = .next t ∧ t.response = ⟨.ok, 0⟩ ∧
      t.osc =
        { o with
          phaseInc := inc, phase := out.phase, union := out.union, exc := units.exc, svf := units.svf
          scratch := out.scratch, firstRender := false
          strike := if cfg.shapeUsesStrike s.osc.shape then false else s.osc.strike } ∧
      (s.hostPort.wf → ∀ i < n, t.hostPort.read16 (outAddress i) = out.y i) ∧
      (∀ a, a < 256 ∨ 256 + 2 * n ≤ a → t.hostPort.read a = s.hostPort.read a) ∧
      t.sys = { s.sys with rng := out.rng } ∧ SameChannels s t ∧ t.pending = s.pending ∧
      t.freeCount = units.free

/-- No stale shape state (rule R403): the first render after a shape change has the same outcome whatever
the previous shapes left in the union, the scratch memory, the Excitations, the Svfs, the phase, the
increment and the first-render flag. -/
def Obligations.RenderForgets : Prop :=
  ∀ (s : State) (o : Oscillator) (size : U16), s.halted = false → 1 ≤ size.toNat → size.toNat ≤ 256 →
    s.osc.shape ≠ s.osc.prevShape → o.shape ≠ o.prevShape → o.shape = s.osc.shape →
    o.pitch = s.osc.pitch → o.param = s.osc.param → o.strike = s.osc.strike →
    ∃ t, exec (.oRender size) s = .next t ∧ exec (.oRender size) (s.withOsc o) = .next t ∧
      t.response = ⟨.ok, 0⟩

/-- `o.read` (rule R401): each select responds with its field, the signed ones sign-extended, and changes
nothing. -/
def Obligations.OscRead : Prop :=
  ∀ s : State, s.halted = false →
    let reads (sel : BitVec 4) (v : U32) : Prop :=
      exec (.oRead sel) s = .next { s with response := ⟨.ok, v⟩ }
    reads 0 (BitVec.ofNat 32 s.osc.shape) ∧ reads 1 (s.osc.pitch.signExtend 32) ∧
    reads 2 ((s.osc.param.get 0).signExtend 32) ∧ reads 3 ((s.osc.param.get 1).signExtend 32) ∧
    reads 4 s.osc.phase ∧ reads 5 s.osc.phaseInc ∧ reads 6 (if s.osc.strike then 1 else 0) ∧
    reads 7 (if s.osc.firstRender then 1 else 0) ∧ reads 8 (BitVec.ofNat 32 s.osc.prevShape) ∧
    (∀ sel : BitVec 4, 9 ≤ sel.toNat → Faults (.oRead sel) s .badIndex)

/-! Voices, under any configuration. -/

/-- A voice's Configure changes only knobs and values derived from knobs: no phase, integrator, envelope
or pool of any voice of the channel (43_voices_percussion.md rule R232). -/
def Obligations.ConfigureKeepsSignal : Prop :=
  ∀ (c : Params) (f : FunctionCode) (p : Processor), SameSignal p (configureRecord c f p)

/-- With no trigger ever, every pulse of a resonator drum stays at rest and done (rules R235 and R237). -/
def Obligations.DrumPulsesRest : Prop :=
  ∀ (κ : Type) (c : Params) (o : DrumOpen κ) (tone : κ → U16) (ctrl : List U8) (s : Draws),
    (∀ b ∈ ctrl, rising b = false) →
    ∀ j, ((drumRun c o (drumInit o tone) ctrl s).1.pulse.get j).state = 0 ∧
      excDone ((drumRun c o (drumInit o tone) ctrl s).1.pulse.get j) = true

/-- The FmDrum recomputes its increment on the samples with `rc = 0` and holds it between; `rc` counts
samples modulo 4 across blocks (rules R246 and R248). -/
def Obligations.FmRecompute : Prop :=
  ∀ (c : Params) (m : FmDrum) (b : U8) (ctrl : List U8),
    (m.rc ≠ 0 → (fmSample c m b).1.inc = m.inc) ∧
    (m.rc = 0 → rising b = false →
      (fmSample c m b).1.inc = c.fm.increment m.k m.chirpEnv m.prev m.x) ∧
    (m.rc = 0 → rising b = true →
      (fmSample c m b).1.inc =
        c.fm.increment m.k (c.fm.trigger m).chirpEnv m.prev (c.fm.trigger m).x) ∧
    (renderBlock (fmSample c) m ctrl).1.rc.val = (m.rc.val + ctrl.length) % 4

/-- One trigger of an initialised PulseShaper with no repetitions gives exactly one window: high on
`duration` samples starting `delay` samples after the trigger, low on every other, with no notch
(44_voices_pulse.md rule R277). For a delay or duration of 2^32 or more, which no rule narrows to the
slot's u32 fields, that its value there is free is the model's choice (notes/assumptions/28.md). -/
def Obligations.ShaperWindow : Prop :=
  ∀ (c : Params) (k : Quad U16) (before after : List U8) (b : U8), c.ps.repetitions k.a3 = 0 →
    rising b = true → (∀ x ∈ before, rising x = false) → (∀ x ∈ after, rising x = false) →
    ∃ delay duration : Nat,
      (c.ps.delay k.a0 < 2 ^ 32 → delay = c.ps.delay k.a0) ∧
      (c.ps.duration k.a1 < 2 ^ 32 → duration = c.ps.duration k.a1) ∧
      (renderBlock (shaperSample c) { shaperInit with k := k } (before ++ b :: after)).2 =
        (List.range (before.length + 1 + after.length)).map fun i =>
          gateLevel c (decide (before.length + delay ≤ i ∧ i < before.length + delay + duration))

/-- With acceptance probability 0 a PulseRandomizer whose slots are idle is silent and consumes exactly
one draw per trigger (rule R286). -/
def Obligations.RandomizerSilent : Prop :=
  ∀ (c : Params) (p : PulseRandomizer) (ctrl : List U8) (s : Draws), p.k.a0 = 0 →
    (∀ r ∈ p.slot, r.active = false) →
    randomizerFill c p ctrl s =
      (p, List.replicate ctrl.length 0, ⟨randomRun c (ctrl.countP fun b => rising b) s.rng, s.free⟩)

/-- A BouncingBall's sample (rules R293, R294 and R296): the launch on a trigger; else the step, bounced at
the floor and the ceiling, while the new velocity stays inside the s32 range; the output always in
[0, 32767]. -/
def Obligations.BallMotion : Prop :=
  ∀ (c : Params) (b : BouncingBall) (free : Nat) (ctrl : U8),
    let r := ballSample c (b, free) ctrl
    let v := b.velocity.toInt - (b.gravity : Int)
    let p := (b.position.toNat : Int) + v
    (rising ctrl = true →
      r.1.1.position.toNat = b.k.a2.toNat * 2 ^ 15 ∧ r.1.1.velocity = c.bb.launchVelocity b.k.a3) ∧
    (rising ctrl = false → -2 ^ 31 < v → v < 2 ^ 31 →
      (r.1.1.position.toNat : Int) = max 0 (min (2 ^ 31 - 1) p) ∧
      r.1.1.velocity.toInt =
        (if p < 0 ∨ 2 ^ 31 - 1 < p then -((v * (65536 - (b.k.a1.toNat : Int))) >>> (16 : Nat)) else v) ∧
      r.1.2 = free) ∧
    r.2.toInt = (r.1.1.position.toNat / 2 ^ 16 : Nat) ∧ 0 ≤ r.2.toInt ∧ r.2.toInt ≤ 32767

/-- Every Lfo waveform is an s16 and every output is that value scaled by (k3 + 1) / 2^16
(45_voices_generators.md rules R323, R324 and R328). -/
def Obligations.LfoRange : Prop :=
  ∀ (c : Params) (l : Lfo) (s : Draws) (ctrl : U8), c.WellFormed →
    let r := lfoSample c (l, s) ctrl
    let w := lfoWaveValue c r.1.1
    (-32768 : Int) ≤ w ∧ w ≤ 32767 ∧ r.2.toInt = (w * ((r.1.1.k.a3.toNat : Int) + 1)) >>> (16 : Nat)

/-- Table interpolation lies between its two entries, and at a fraction of 0 is the entry
(40_fixedpoint.md rules R165 and R166). For `Interpolate824` this is the model's choice where the product
leaves s32: rule R161 leaves such a value open, and the model takes it exact, as rule R160 says
(notes/assumptions/20.md). -/
def Obligations.InterpolationBetween : Prop :=
  ∀ t : List S16,
    (∀ x : U16,
      let a := tableAt t (x.toNat / 256)
      let b := tableAt t (x.toNat / 256 + 1)
      min a b ≤ interpolate88 t x ∧ interpolate88 t x ≤ max a b ∧
      (x.toNat % 256 = 0 → interpolate88 t x = a)) ∧
    (∀ (bits : Nat) (p : U32), 1 ≤ bits → bits ≤ 24 →
      let a := tableAt t (p.toNat / 2 ^ 24)
      let b := tableAt t (p.toNat / 2 ^ 24 + 1)
      min a b ≤ interpolate824 bits t p ∧ interpolate824 bits t p ≤ max a b ∧
      (p.toNat % 2 ^ 24 = 0 → interpolate824 bits t p = a))

/-! Invariants. -/

/-- The block's invariant and the coupling of the rings hold after reset. -/
def Obligations.ResetInvariant : Prop := State.reset.Inv cfg ∧ State.reset.RingsCoupled

/-- Every step keeps the block's invariant: a legal status word, rings and pools of their sizes with
indices in range, legal shape selectors, Excitation counters and Svf integrators in their ranges, and a
memory in canonical form inside SYNC_BUF and OUT_BUF. -/
def Obligations.StepKeepsInvariant : Prop :=
  ∀ s t : State, s.Inv cfg → step s = .next t → t.Inv cfg

/-- Every step keeps the coupling of 46_processors.md rule R363: the input ring's write index is the
output ring's read index, and the input ring's read index is the output ring's write index. -/
def Obligations.StepKeepsCoupling : Prop :=
  ∀ s t : State, s.RingsCoupled → step s = .next t → t.RingsCoupled

/-! What a Configure writes. -/

/-- What a Configure writes (43_voices_percussion.md rule R232 and the rule of each voice): after each of
the four commands that run it, the record of the function the channel then has holds the knobs that the
rule gives for the parameter registers and the control mode, in FULL and in HALF, and the values derived
from them. That a switch from TAP_LFO to LFO gives `phaseInc` the free-running rate is the model's choice
between rule R327, by which it carries over, and the Configure of rule R355
(notes/assumptions/12.md). -/
def Obligations.ConfigureKnobs : Prop :=
  ∀ (s : State) (ch : Chan), s.halted = false →
    (∃ t, exec (.pInit ch) s = .next t ∧ Configured cfg (t.proc ch)) ∧
    (∀ code : U16, code.toNat < 12 → ∃ t, exec (.pSetFunction ch code) s = .next t ∧ Configured cfg (t.proc ch)) ∧
    (∀ (sub : BitVec 4) (v : U16), sub.toNat < 4 →
      ∃ t, exec (.pSetParameter ch sub v) s = .next t ∧ Configured cfg (t.proc ch)) ∧
    (∀ code : U16, code.toNat < 2 →
      ∃ t, exec (.pSetControlMode ch code) s = .next t ∧ Configured cfg (t.proc ch))
end

