-- ==== Sys2Proof/Laws/Rings.lean ====
section
/-! SUPPORT. The ring buffers: what each ring operation leaves (46_processors.md rules R350 and R351). -/

namespace Sys2Proof.Machine

/-- The number of readable cells of a ring whose indices are in range, without integers. -/
theorem Ring.readable_eq {α : Type} {n : Nat} {g : Ring α} (hr : g.r < n) :
    g.readable n = (g.w + n - g.r) % n := by
  have h : (((g.w : Int) - (g.r : Int)) % (n : Int)) = (((g.w + n - g.r : Nat) : Int)) % (n : Int) := by
    rw [show ((g.w + n - g.r : Nat) : Int) = (g.w : Int) - g.r + n by omega, Int.add_emod_right]
  rw [Ring.readable, h]
  norm_cast

/-- The number of writable cells, without integers. -/
theorem Ring.writable_eq {α : Type} {n : Nat} {g : Ring α} (hw : g.w < n) :
    g.writable n = (g.r + n - g.w - 1) % n := by
  have h : (((g.r : Int) - (g.w : Int) - 1) % (n : Int)) =
      (((g.r + n - g.w - 1 : Nat) : Int)) % (n : Int) := by
    rw [show ((g.r + n - g.w - 1 : Nat) : Int) = (g.r : Int) - g.w - 1 + n by omega, Int.add_emod_right]
  rw [Ring.writable, h]
  norm_cast

/-- The readable cells by cases on the order of the indices. -/
theorem Ring.readable_cases {α : Type} {n : Nat} {g : Ring α} (hr : g.r < n) (hw : g.w < n) :
    g.readable n = if g.r ≤ g.w then g.w - g.r else g.w + n - g.r := by
  rw [Ring.readable_eq hr]
  split
  · rw [show g.w + n - g.r = g.w - g.r + n by omega, Nat.add_mod_right, Nat.mod_eq_of_lt (by omega)]
  · exact Nat.mod_eq_of_lt (by omega)

/-- The writable cells by cases on the order of the indices. -/
theorem Ring.writable_cases {α : Type} {n : Nat} {g : Ring α} (hr : g.r < n) (hw : g.w < n) :
    g.writable n = if g.w < g.r then g.r - g.w - 1 else g.r + n - g.w - 1 := by
  rw [Ring.writable_eq hw]
  split
  · rw [show g.r + n - g.w - 1 = g.r - g.w - 1 + n by omega, Nat.add_mod_right,
      Nat.mod_eq_of_lt (by omega)]
  · exact Nat.mod_eq_of_lt (by omega)

/-- The next index: one more, or 0 at the end. -/
theorem next_index {n i : Nat} (h : i < n) : (i + 1) % n = if i + 1 = n then 0 else i + 1 := by
  split
  · simp [*]
  · exact Nat.mod_eq_of_lt (by omega)

theorem ringOk_init {α : Type} (n : Nat) (zero : α) (h : 0 < n) : RingOk n (Ring.init n zero) :=
  ⟨by simp [Ring.init], h, h⟩

theorem RingOk.write {α : Type} {n : Nat} {g : Ring α} (h : RingOk n g) (v : α) :
    RingOk n (g.write n v).1 :=
  ⟨by simp [Ring.write, h.1], h.2.1, Nat.mod_lt _ (by have := h.2.1; omega)⟩

theorem RingOk.read {α : Type} {n : Nat} {g : Ring α} (h : RingOk n g) (zero : α) :
    RingOk n (g.read n zero).1 :=
  ⟨h.1, Nat.mod_lt _ (by have := h.2.1; omega), h.2.2⟩

/-- What a series of reads leaves: the read index moves by their number and nothing else changes. -/
theorem Ring.readMany_spec {α : Type} (n : Nat) (zero : α) (count : Nat) (g : Ring α) (hn : g.r < n) :
    (g.readMany n zero count).1 = { g with r := (g.r + count) % n } ∧
    (g.readMany n zero count).2.1.length = count := by
  induction count generalizing g with
  | zero => exact ⟨by simp [Ring.readMany, Nat.mod_eq_of_lt hn], rfl⟩
  | succ count ih =>
    have := ih { g with r := (g.r + 1) % n } (Nat.mod_lt _ (by omega))
    refine ⟨?_, by simp [Ring.readMany, Ring.read, this.2]⟩
    simp only [Ring.readMany, Ring.read, this.1, Nat.mod_add_mod]
    congr 2
    omega

/-- The read index after a series of reads, in a ring of any shape. -/
theorem Ring.readMany_index {α : Type} (n : Nat) (zero : α) (count : Nat) (g : Ring α) :
    (g.readMany n zero count).1 = { g with r := (fun i => (i + 1) % n)^[count] g.r } := by
  induction count generalizing g with
  | zero => rfl
  | succ count ih => simp only [Ring.readMany, Ring.read, ih, Function.iterate_succ_apply]

/-- The indices after a series of writes, in a ring of any shape. -/
theorem Ring.writeMany_index {α : Type} (n : Nat) (vs : List α) (g : Ring α) :
    (g.writeMany n vs).1.w = (fun i => (i + 1) % n)^[vs.length] g.w ∧ (g.writeMany n vs).1.r = g.r := by
  induction vs generalizing g with
  | nil => exact ⟨rfl, rfl⟩
  | cons v vs ih =>
    simp only [Ring.writeMany, Ring.write, ih, List.length_cons, Function.iterate_succ_apply, and_self]

theorem RingOk.readMany {α : Type} {n : Nat} {g : Ring α} (h : RingOk n g) (zero : α) (count : Nat) :
    RingOk n (g.readMany n zero count).1 := by
  rw [(Ring.readMany_spec n zero count g h.2.1).1]
  exact ⟨h.1, Nat.mod_lt _ (by have := h.2.1; omega), h.2.2⟩

/-- What a series of writes leaves of the indices and the number of cells. -/
theorem Ring.writeMany_spec {α : Type} (n : Nat) (vs : List α) (g : Ring α) (hn : g.w < n) :
    (g.writeMany n vs).1.w = (g.w + vs.length) % n ∧ (g.writeMany n vs).1.r = g.r ∧
    (g.writeMany n vs).1.cells.length = g.cells.length := by
  induction vs generalizing g with
  | nil => exact ⟨by simp [Ring.writeMany, Nat.mod_eq_of_lt hn], rfl, rfl⟩
  | cons v vs ih =>
    have := ih { g with cells := g.cells.set g.w v, w := (g.w + 1) % n } (Nat.mod_lt _ (by omega))
    refine ⟨?_, by simp [Ring.writeMany, Ring.write, this.2.1], by simp [Ring.writeMany, Ring.write, this.2.2]⟩
    simp only [Ring.writeMany, Ring.write, this.1, Nat.mod_add_mod, List.length_cons]
    congr 1
    omega

theorem RingOk.writeMany {α : Type} {n : Nat} {g : Ring α} (h : RingOk n g) (vs : List α) :
    RingOk n (g.writeMany n vs).1 := by
  obtain ⟨hw, hr, hc⟩ := Ring.writeMany_spec n vs g h.2.2
  exact ⟨hc.trans h.1, hr ▸ h.2.1, hw ▸ Nat.mod_lt _ (by have := h.2.1; omega)⟩

/-- A series of writes into a ring with room for all of them never finds it full. -/
theorem Ring.writeMany_room {α : Type} (n : Nat) (vs : List α) (g : Ring α) (hr : g.r < n) (hw : g.w < n)
    (h : vs.length ≤ g.writable n) : (g.writeMany n vs).2 = false := by
  induction vs generalizing g with
  | nil => rfl
  | cons v vs ih =>
    simp only [List.length_cons] at h
    have hw' : (g.w + 1) % n < n := Nat.mod_lt _ (by omega)
    have := ih { g with cells := g.cells.set g.w v, w := (g.w + 1) % n } hr hw' (by
      rw [Ring.writable_cases hr hw] at h
      rw [Ring.writable_cases (g := { g with cells := g.cells.set g.w v, w := (g.w + 1) % n }) hr hw']
      simp only [next_index hw]
      split at h <;> split <;> split <;> omega)
    simp only [Ring.writeMany, Ring.write, this, Bool.or_false, decide_eq_false_iff_not]
    omega

/-- The values of a series of reads: the cells from the read index on, around the end. -/
theorem Ring.readMany_getD {α : Type} (n : Nat) (zero : α) (count : Nat) (g : Ring α) (hn : g.r < n) (j : Nat)
    (hj : j < count) : (g.readMany n zero count).2.1.getD j zero = g.cells.getD ((g.r + j) % n) zero := by
  induction count generalizing g j with
  | zero => omega
  | succ count ih =>
    cases j with
    | zero => simp [Ring.readMany, Ring.read, Nat.mod_eq_of_lt hn]
    | succ j =>
      have := ih { g with r := (g.r + 1) % n } (Nat.mod_lt _ (by omega)) j (by omega)
      simp only [Ring.readMany, Ring.read, List.getD_cons_succ]
      rw [this]
      simp only [Nat.mod_add_mod]
      congr 2
      omega

/-- A series of reads finds the ring empty exactly when it reads more values than the ring holds. -/
theorem Ring.readMany_empty {α : Type} (n : Nat) (zero : α) (count : Nat) (g : Ring α) (hr : g.r < n)
    (hw : g.w < n) (hc : count < n) : (g.readMany n zero count).2.2 = decide (g.readable n < count) := by
  induction count generalizing g with
  | zero => simp [Ring.readMany]
  | succ count ih =>
    have hr' : (g.r + 1) % n < n := Nat.mod_lt _ (by omega)
    have := ih { g with r := (g.r + 1) % n } hr' hw (by omega)
    simp only [Ring.readMany, Ring.read, this]
    rw [Ring.readable_cases hr hw, Ring.readable_cases (g := { g with r := (g.r + 1) % n }) hr' hw]
    simp only [next_index hr]
    rw [← Bool.decide_or, decide_eq_decide]
    split <;> split <;> split <;> omega

/-- A series of writes leaves every cell it does not reach. -/
theorem Ring.writeMany_kept {α : Type} (n : Nat) (zero : α) (vs : List α) (g : Ring α) (hw : g.w < n) (i : Nat)
    (hi : ∀ j < vs.length, i ≠ (g.w + j) % n) :
    (g.writeMany n vs).1.cells.getD i zero = g.cells.getD i zero := by
  induction vs generalizing g with
  | nil => rfl
  | cons v vs ih =>
    have hn : i ≠ g.w := by simpa [Nat.mod_eq_of_lt hw] using hi 0 (by simp)
    have := ih { g with cells := g.cells.set g.w v, w := (g.w + 1) % n } (Nat.mod_lt _ (by omega))
      (fun j hj => by
        have := hi (j + 1) (by simpa using hj)
        rw [show g.w + (j + 1) = g.w + 1 + j by omega] at this
        simpa only [Nat.mod_add_mod] using this)
    simp only [Ring.writeMany, Ring.write]
    rw [this]
    simp [List.getD_eq_getElem?_getD, Ne.symm hn]

/-- The cells after a series of writes: those from the write index on hold the values. -/
theorem Ring.writeMany_written {α : Type} (n : Nat) (zero : α) (vs : List α) (g : Ring α) (hw : g.w < n)
    (hc : g.cells.length = n) (hv : vs.length ≤ n) (j : Nat) (hj : j < vs.length) :
    (g.writeMany n vs).1.cells.getD ((g.w + j) % n) zero = vs.getD j zero := by
  induction vs generalizing g j with
  | nil => simp at hj
  | cons v vs ih =>
    simp only [List.length_cons] at hv hj
    have hw' : (g.w + 1) % n < n := Nat.mod_lt _ (by omega)
    cases j with
    | zero =>
      have := Ring.writeMany_kept n zero vs { g with cells := g.cells.set g.w v, w := (g.w + 1) % n } hw'
        g.w (fun j hj' => by
          simp only [Nat.mod_add_mod]
          have h1 := Nat.mod_lt (g.w + 1 + j) (show 0 < n by omega)
          have h2 := Nat.div_add_mod (g.w + 1 + j) n
          rcases Nat.lt_or_ge (g.w + 1 + j) n with h | h
          · rw [Nat.mod_eq_of_lt h]; omega
          · rw [Nat.mod_eq_sub_mod h, Nat.mod_eq_of_lt (by omega)]; omega)
      simp only [Ring.writeMany, Ring.write, Nat.add_zero, Nat.mod_eq_of_lt hw, List.getD_cons_zero]
      rw [this]
      simp [List.getD_eq_getElem?_getD, show g.w < g.cells.length by omega]
    | succ j =>
      have := ih { g with cells := g.cells.set g.w v, w := (g.w + 1) % n } hw' (by simpa using hc) (by omega) j
        (by omega)
      simp only [Nat.mod_add_mod] at this
      simp only [Ring.writeMany, Ring.write, List.getD_cons_succ]
      rw [← this]
      congr 2
      omega

end Sys2Proof.Machine
end

