-- ==== Sys2Proof/Laws/Voices.lean ====
section
/-! SUPPORT. The fixed-point helpers, the two primitives and the voices: bounds and shapes of what each
returns. -/

namespace Sys2Proof.Machine

open Sys2Proof.Config

/-! Clipping (40_fixedpoint.md rule R163). -/

theorem clip16_range (v : Int) : -32768 ≤ clip16 v ∧ clip16 v ≤ 32767 := by
  unfold clip16
  split
  · omega
  · split <;> omega

theorem clip16_of_range {v : Int} (h : -32768 ≤ v) (h' : v ≤ 32767) : clip16 v = v := by
  unfold clip16
  rw [if_neg (by omega), if_neg (by omega)]

/-- A register of `n + 1` bits holds an integer that fits it. -/
theorem toInt_ofInt_of_range {n : Nat} {v : Int} (h : -2 ^ n ≤ v) (h' : v < 2 ^ n) :
    (BitVec.ofInt (n + 1) v).toInt = v := by
  rw [BitVec.toInt_ofInt]
  apply Int.bmod_eq_of_le <;> rw [show ((2 ^ (n + 1) : Nat) : Int) = 2 * 2 ^ n by push_cast; ring] <;> omega

theorem toInt_ofInt_s16 {v : Int} (h : -32768 ≤ v) (h' : v ≤ 32767) : (BitVec.ofInt 16 v).toInt = v :=
  toInt_ofInt_of_range (n := 15) (by omega) (by omega)

theorem toInt_ofInt_s32 {v : Int} (h : -2147483648 ≤ v) (h' : v ≤ 2147483647) :
    (BitVec.ofInt 32 v).toInt = v :=
  toInt_ofInt_of_range (n := 31) (by omega) (by omega)

/-- The number of an s16 register is in its range. -/
theorem toInt_s16_range (v : S16) : -32768 ≤ v.toInt ∧ v.toInt ≤ 32767 := by
  have h := BitVec.le_toInt v
  have h' := BitVec.toInt_lt (x := v)
  simp at h h'
  omega

@[simp] theorem toInt_ofInt_clip16_s16 (v : Int) : (BitVec.ofInt 16 (clip16 v)).toInt = clip16 v :=
  toInt_ofInt_s16 (clip16_range v).1 (clip16_range v).2

@[simp] theorem toInt_ofInt_clip16_s32 (v : Int) : (BitVec.ofInt 32 (clip16 v)).toInt = clip16 v :=
  toInt_ofInt_s32 (by have := clip16_range v; omega) (by have := clip16_range v; omega)

@[simp] theorem toInt_sample16 (v : Int) : (sample16 v).toInt = clip16 v :=
  toInt_ofInt_s16 (clip16_range v).1 (clip16_range v).2

/-! Excitation (41_excitation.md). -/

@[simp] theorem excProcess_counter (c : Params) (e : Excitation) (free : Nat) :
    (excProcess c e free).1.counter = e.counter - 1 := by
  unfold excProcess
  split <;> rfl

@[simp] theorem excProcess_delay (c : Params) (e : Excitation) (free : Nat) :
    (excProcess c e free).1.delay = e.delay := by
  unfold excProcess
  split <;> rfl

@[simp] theorem excProcess_decay (c : Params) (e : Excitation) (free : Nat) :
    (excProcess c e free).1.decay = e.decay := by
  unfold excProcess
  split <;> rfl

@[simp] theorem excProcess_level (c : Params) (e : Excitation) (free : Nat) :
    (excProcess c e free).1.level = e.level := by
  unfold excProcess
  split <;> rfl

/-- An integer that fits an s32 is stored as it is, and nothing is drawn. -/
theorem storeS32_of_fits (c : Params) {v : Int} (free : Nat) (h : -2147483648 ≤ v) (h' : v < 2147483648) :
    storeS32 c v free = (BitVec.ofInt 32 v, free) := if_pos ⟨h, h'⟩

/-- Inside the range of rule R200 the new state fits its register and is that of rule R195. -/
theorem excProcess_state_of_inRange {c : Params} {e : Excitation} {free : Nat} (h : excInRange e = true) :
    (excProcess c e free).1.state.toNat = excNextState e := by
  have hr := h
  simp only [excInRange, decide_eq_true_eq] at hr
  have hd : excDecayed e ≤ e.state.toNat * e.decay.toNat := by
    rw [excDecayed, Nat.shiftRight_eq_div_pow]
    exact Nat.div_le_self _ _
  have hlt : excNextState e < 2 ^ 32 := by
    unfold excNextState
    split <;> omega
  simp only [excProcess, h, if_true, BitVec.toNat_ofNat]
  omega

/-- There, while the new state stays below 2^31, the value is that of rule R195 and nothing is drawn. -/
theorem excProcess_of_inRange {c : Params} {e : Excitation} {free : Nat} (h : excInRange e = true)
    (hlt : excNextState e < 2 ^ 31) :
    (excProcess c e free).2.1.toInt = (if e.level.toInt < 0 then -(excNextState e : Int) else excNextState e) ∧
    (excProcess c e free).2.2 = free := by
  simp only [excProcess, h, if_true]
  rw [storeS32_of_fits c free (by split <;> omega) (by split <;> omega)]
  exact ⟨toInt_ofInt_s32 (by split <;> omega) (by split <;> omega), rfl⟩

/-! Scripts. -/

/-- What every call keeps, a script keeps. -/
theorem Script.run_keeps {Call : Type} {Answer : Call → Type} {α σ : Type}
    {perform : (c : Call) → σ → Answer c × σ} (K : σ → Prop) (hK : ∀ c s, K s → K (perform c s).2)
    (x : Script Call Answer α) {s : σ} (h : K s) : K (x.run perform s).2 := by
  induction x generalizing s with
  | result a => exact h
  | call c next ih => exact ih _ (hK c s h)

/-- A script's result has every property all its results have. -/
theorem Script.run_always {Call : Type} {Answer : Call → Type} {α σ : Type}
    (perform : (c : Call) → σ → Answer c × σ) (P : α → Prop) (x : Script Call Answer α) (s : σ)
    (h : x.Always P) : P (x.run perform s).1 := by
  induction x generalizing s with
  | result a => exact h
  | call c next ih => exact ih _ _ (h _)

/-! Svf (42_svf.md). -/

/-- `Svf_Process` leaves both integrators in their range, whatever it finds. -/
theorem svfProcess_inRange (c : Params) (v : Svf) (x : Int) : svfInRange (svfProcess c v x).1 := by
  simp only [svfProcess, svfInRange, svfStages, toInt_ofInt_clip16_s32]
  exact ⟨(clip16_range _).1, (clip16_range _).2, (clip16_range _).1, (clip16_range _).2⟩

/-- `Svf_Process` leaves the settings. -/
theorem svfProcess_settings (c : Params) (v : Svf) (x : Int) :
    (svfProcess c v x).1.frequency = v.frequency ∧ (svfProcess c v x).1.resonance = v.resonance ∧
    (svfProcess c v x).1.punch = v.punch ∧ (svfProcess c v x).1.mode = v.mode := ⟨rfl, rfl, rfl, rfl⟩

theorem svfInRange_init : svfInRange svfInit := by decide

/-! Renderers (47_oscillator.md rule R400). -/

theorem Quad.get_set_of_all {α : Type} {P : α → Prop} {q : Quad α} (h : ∀ j, P (q.get j)) (k : Fin 4) {x : α}
    (hx : P x) : ∀ j, P ((q.set k x).get j) := by
  intro j
  have h0 := h 0
  have h1 := h 1
  have h2 := h 2
  have h3 := h 3
  fin_cases k <;> fin_cases j <;> assumption

theorem Triple.get_set_of_all {α : Type} {P : α → Prop} {q : Triple α} (h : ∀ j, P (q.get j)) (k : Fin 3)
    {x : α} (hx : P x) : ∀ j, P ((q.set k x).get j) := by
  intro j
  have h0 := h 0
  have h1 := h 1
  have h2 := h 2
  fin_cases k <;> fin_cases j <;> assumption

/-- Every call of a renderer keeps the Excitation counters and the Svf integrators in the ranges of
10_state.md rules R41 and R42. -/
theorem renderCall_ranges (c : Params) (call : RenderCall) (u : RenderUnits)
    (h : (∀ k, (u.exc.get k).counter ≤ 65536) ∧ ∀ k, svfInRange (u.svf.get k)) :
    (∀ k, ((renderCall c call u).2.exc.get k).counter ≤ 65536) ∧
      ∀ k, svfInRange ((renderCall c call u).2.svf.get k) := by
  obtain ⟨he, hv⟩ := h
  have se : ∀ (k : Fin 4) (x : Excitation), x.counter ≤ 65536 → ∀ j, ((u.exc.set k x).get j).counter ≤ 65536 :=
    fun k _ hx => Quad.get_set_of_all (P := fun e : Excitation => e.counter ≤ 65536) he k hx
  have sv : ∀ (k : Fin 3) (x : Svf), svfInRange x → ∀ j, svfInRange ((u.svf.set k x).get j) :=
    fun k _ hx => Triple.get_set_of_all (P := svfInRange) hv k hx
  cases call with
  | excInit k => exact ⟨se k excInit (by decide), hv⟩
  | excSetDelay k d => exact ⟨se k _ (he k), hv⟩
  | excSetDecay k d => exact ⟨se k _ (he k), hv⟩
  | excTrigger k level =>
    exact ⟨se k _ (by show (u.exc.get k).delay.toNat + 1 ≤ 65536; have := (u.exc.get k).delay.isLt; omega), hv⟩
  | excProcess k =>
    refine ⟨se k (excProcess c (u.exc.get k) u.free).1 ?_, hv⟩
    rw [excProcess_counter]
    exact (Nat.sub_le _ _).trans (he k)
  | excDone k => exact ⟨he, hv⟩
  | svfInit k => exact ⟨he, sv k _ svfInRange_init⟩
  | svfSetFrequency k f => exact ⟨he, sv k _ (hv k)⟩
  | svfSetResonance k r => exact ⟨he, sv k _ (hv k)⟩
  | svfSetPunch k p => exact ⟨he, sv k _ (hv k)⟩
  | svfSetMode k m => exact ⟨he, sv k _ (hv k)⟩
  | svfProcess k x => exact ⟨he, sv k _ (svfProcess_inRange c _ _)⟩

/-- The deferred shape init leaves an oscillator in order (rule R398). -/
theorem shapeInit_ok {c : Params} {o : Oscillator} (h : OscillatorOk c o) : OscillatorOk c (shapeInit c o) := by
  unfold shapeInit
  split
  · exact ⟨h.1, h.1, List.length_replicate, List.length_replicate, fun k => by fin_cases k <;> exact Nat.zero_le _,
      fun k => by fin_cases k <;> exact svfInRange_init⟩
  · exact h

/-- A render leaves an oscillator in order (rule R399). -/
theorem oscRender_ok {c : Params} {o : Oscillator} (hc : c.WellFormed) (h : OscillatorOk c o) (sync : List U8)
    (n : Nat) (d : Draws) : OscillatorOk c (oscRender c o sync n d).1 := by
  obtain ⟨hs, hp, hu, hm, he, hv⟩ := shapeInit_ok h
  obtain ⟨he', hv'⟩ :=
    Script.run_keeps (fun u : RenderUnits => (∀ k, (u.exc.get k).counter ≤ 65536) ∧ ∀ k, svfInRange (u.svf.get k))
      (renderCall_ranges c)
      (c.renderShape (renderStart c o).shape (renderArgs (renderStart c o) sync n d.rng))
      (s := ⟨(shapeInit c o).exc, (shapeInit c o).svf, d.free⟩) ⟨he, hv⟩
  obtain ⟨hu', hm', -⟩ := Script.run_always (renderCall c) _ _ ⟨(shapeInit c o).exc, (shapeInit c o).svf, d.free⟩
    (hc.render_keeps (renderStart c o).shape (renderArgs (renderStart c o) sync n d.rng))
  exact ⟨hs, hp, hu'.trans hu, hm'.trans hm, he', hv'⟩

/-- A render changes the noise state by draws only (40_fixedpoint.md rule R169). -/
theorem oscRender_rng {c : Params} (o : Oscillator) (hc : c.WellFormed) (sync : List U8) (n : Nat) (d : Draws) :
    ∃ k, (oscRender c o sync n d).2.2.rng = randomRun c k d.rng :=
  (Script.run_always (renderCall c) _ _ ⟨(shapeInit c o).exc, (shapeInit c o).svf, d.free⟩
    (hc.render_keeps (renderStart c o).shape (renderArgs (renderStart c o) sync n d.rng))).2.2

/-! Blocks. -/

/-- A block has one sample per control byte. -/
@[simp] theorem renderBlock_length {σ : Type} (f : σ → U8 → σ × S16) (s : σ) (ctrl : List U8) :
    (renderBlock f s ctrl).2.length = ctrl.length := by
  induction ctrl generalizing s with
  | nil => rfl
  | cons b rest ih => simp [renderBlock, ih]

/-- A property each sample keeps holds after a block. -/
theorem renderBlock_keeps {σ : Type} (f : σ → U8 → σ × S16) (K : σ → Prop)
    (hf : ∀ s b, K s → K (f s b).1) (s : σ) (ctrl : List U8) (h : K s) : K (renderBlock f s ctrl).1 := by
  induction ctrl generalizing s with
  | nil => exact h
  | cons b rest ih => exact ih _ (hf s b h)

/-- A property of a sample, of a state kept, holds of every sample of a block. -/
theorem renderBlock_outputs {σ : Type} (f : σ → U8 → σ × S16) (K : σ → Prop) (Q : S16 → Prop)
    (hf : ∀ s b, K s → K (f s b).1 ∧ Q (f s b).2) (s : σ) (ctrl : List U8) (h : K s) :
    ∀ y ∈ (renderBlock f s ctrl).2, Q y := by
  induction ctrl generalizing s with
  | nil => simp [renderBlock]
  | cons b rest ih =>
    intro y hy
    simp only [renderBlock, List.mem_cons] at hy
    rcases hy with rfl | hy
    · exact (hf s b h).2
    · exact ih _ (hf s b h).1 y hy

/-! The pools keep their 32 slots (44_voices_pulse.md rules R271 and R280). -/

@[simp] theorem pulseSlotsStep_length (slots : List PulseSlot) :
    (pulseSlotsStep slots).1.length = slots.length := by
  induction slots with
  | nil => rfl
  | cons s rest ih =>
    simp only [pulseSlotsStep]
    split <;> simp [ih]

@[simp] theorem shaperAllocate_length (c : Params) (p : PulseShaper) :
    (shaperAllocate c p).slot.length = p.slot.length := by
  unfold shaperAllocate
  split <;> simp

@[simp] theorem shaperSample_length (c : Params) (p : PulseShaper) (ctrl : U8) :
    (shaperSample c p ctrl).1.slot.length = p.slot.length := by
  simp only [shaperSample, pulseSlotsStep_length]
  split <;> simp

theorem shaperFill_length (c : Params) (p : PulseShaper) (ctrl : List U8) (s : Draws) :
    (shaperFill c p ctrl s).1.slot.length = p.slot.length :=
  renderBlock_keeps (shaperSample c) (fun q => q.slot.length = p.slot.length)
    (fun q b h => by simp [h]) p ctrl rfl

@[simp] theorem randomSlotsStep_length (c : Params) (k : Quad U16) (slots : List RandomSlot) (s : Draws) :
    (randomSlotsStep c k slots s).1.length = slots.length := by
  induction slots generalizing s with
  | nil => rfl
  | cons r rest ih => simp [randomSlotsStep, ih]

@[simp] theorem randomizerTrigger_length (c : Params) (p : PulseRandomizer) (s : Draws) :
    (randomizerTrigger c p s).1.slot.length = p.slot.length := by
  simp only [randomizerTrigger]
  split
  · split <;> simp
  · rfl

@[simp] theorem randomizerSample_length (c : Params) (ps : PulseRandomizer × Draws) (ctrl : U8) :
    (randomizerSample c ps ctrl).1.1.slot.length = ps.1.slot.length := by
  simp only [randomizerSample, randomSlotsStep_length]
  split <;> simp

theorem randomizerFill_length (c : Params) (p : PulseRandomizer) (ctrl : List U8) (s : Draws) :
    (randomizerFill c p ctrl s).1.slot.length = p.slot.length :=
  renderBlock_keeps (randomizerSample c) (fun q => q.1.slot.length = p.slot.length)
    (fun q b h => by simp [h]) (p, s) ctrl rfl

end Sys2Proof.Machine
end

