-- ==== Sys2Proof/Laws/Channels.lean ====
section
/-! SUPPORT. The channel operations of 46_processors.md: what each leaves of the registers, the rings and
the pools. -/

namespace Sys2Proof.Machine

open Sys2Proof.Config

/-- What an operation on the voice records leaves: the rings, the parameter registers and the control
mode are the same, and the pools keep their sizes. -/
structure KeepsChannel (p q : Processor) : Prop where
  inRing : q.inRing = p.inRing
  outRing : q.outRing = p.outRing
  param : q.param = p.param
  controlMode : q.controlMode = p.controlMode
  psLength : p.ps.slot.length = 32 → q.ps.slot.length = 32
  prLength : p.pr.slot.length = 32 → q.pr.slot.length = 32

theorem KeepsChannel.refl (p : Processor) : KeepsChannel p p := ⟨rfl, rfl, rfl, rfl, id, id⟩

theorem KeepsChannel.trans {p q r : Processor} (h : KeepsChannel p q) (h' : KeepsChannel q r) :
    KeepsChannel p r :=
  ⟨h'.inRing.trans h.inRing, h'.outRing.trans h.outRing, h'.param.trans h.param,
    h'.controlMode.trans h.controlMode, fun x => h'.psLength (h.psLength x), fun x => h'.prLength (h.prLength x)⟩

theorem keepsChannel_function (p : Processor) (f : FunctionCode) : KeepsChannel p { p with function := f } :=
  ⟨rfl, rfl, rfl, rfl, id, id⟩

theorem keepsChannel_lfo (p : Processor) (l : Lfo) : KeepsChannel p { p with lfo := l } :=
  ⟨rfl, rfl, rfl, rfl, id, id⟩

theorem keepsChannel_initRecord (c : Params) (f : FunctionCode) (p : Processor) :
    KeepsChannel p (initRecord c f p) := by
  cases f <;> exact ⟨rfl, rfl, rfl, rfl, fun h => by first | exact h | rfl, fun h => by first | exact h | rfl⟩

@[simp] theorem initRecord_function (c : Params) (f : FunctionCode) (p : Processor) :
    (initRecord c f p).function = p.function := by
  cases f <;> rfl

theorem keepsChannel_configureRecord (c : Params) (f : FunctionCode) (p : Processor) :
    KeepsChannel p (configureRecord c f p) := by
  cases f <;> exact ⟨rfl, rfl, rfl, rfl, id, id⟩

@[simp] theorem configureRecord_function (c : Params) (f : FunctionCode) (p : Processor) :
    (configureRecord c f p).function = p.function := by
  cases f <;> rfl

theorem keepsChannel_hysteresis (c : Params) (p : Processor) : KeepsChannel p (hysteresis c p) := by
  unfold hysteresis
  split
  · exact (keepsChannel_function p _).trans (keepsChannel_initRecord c _ _)
  · split
    · exact (keepsChannel_function p _).trans (keepsChannel_initRecord c _ _)
    · exact .refl p

theorem keepsChannel_configure (c : Params) (p : Processor) : KeepsChannel p (configure c p) :=
  (keepsChannel_hysteresis c p).trans (keepsChannel_configureRecord c _ _)

@[simp] theorem configure_function (c : Params) (p : Processor) :
    (configure c p).function = (hysteresis c p).function := by
  simp [configure]

theorem keepsChannel_setFunction (c : Params) (f : FunctionCode) (p : Processor) :
    KeepsChannel p (channelSetFunction c f p) := by
  refine KeepsChannel.trans ?_ (keepsChannel_configure c _)
  refine KeepsChannel.trans ?_ (keepsChannel_function _ _)
  split
  · exact keepsChannel_lfo p _
  · split
    · exact (keepsChannel_initRecord c f p).trans (keepsChannel_lfo _ _)
    · exact keepsChannel_initRecord c f p

/-! `p.set_function` (46_processors.md rule R355), case by case. -/

/-- The switch between LFO and TAP_LFO changes only sync, so phase, phase_inc, count, pp and the knobs carry
over it (45_voices_generators.md rule R327). -/
theorem setLfoSync_eq (f : FunctionCode) (p : Processor) :
    setLfoSync f p = { p with lfo := { p.lfo with sync := f == .tapLfo } } := rfl

theorem channelSetFunction_of_other (c : Params) {f : FunctionCode} (p : Processor) (h : f.usesLfo = false) :
    channelSetFunction c f p = configure c { initRecord c f p with function := f } := by
  rw [channelSetFunction, h]
  rfl

theorem channelSetFunction_of_fresh (c : Params) {f : FunctionCode} (p : Processor) (h : f.usesLfo = true)
    (h' : p.function.usesLfo = false) :
    channelSetFunction c f p =
      configure c { p with function := f, lfo := { lfoInit c with sync := f == .tapLfo } } := by
  rw [channelSetFunction, h, h']
  cases f <;> simp [FunctionCode.usesLfo] at h <;> simp [setLfoSync_eq, initRecord]

theorem channelSetFunction_of_switch (c : Params) {f : FunctionCode} (p : Processor) (h : f.usesLfo = true)
    (h' : p.function.usesLfo = true) :
    channelSetFunction c f p =
      configure c { p with function := f, lfo := { p.lfo with sync := f == .tapLfo } } := by
  rw [channelSetFunction, h, h']
  rfl

/-! The hysteresis and what a Configure touches. -/

theorem hysteresis_to_hat (c : Params) {p : Processor} (h : p.function = .snareDrum)
    (h1 : 65000 < p.param.a1.toNat) (h2 : 65000 < p.param.a2.toNat) :
    hysteresis c p = { p with function := .highHat, hh := hatInit c } := by
  rw [hysteresis, if_pos ⟨h, h1, h2⟩]
  rfl

theorem hysteresis_to_snare (c : Params) {p : Processor} (h : p.function = .highHat)
    (h1 : p.param.a1.toNat < 64500 ∨ p.param.a2.toNat < 64500) :
    hysteresis c p = { p with function := .snareDrum, sd := snareInit c } := by
  rw [hysteresis, if_neg (by simp [h]), if_pos ⟨h, h1⟩]
  rfl

/-- The records named by the touched functions aside, nothing differs after two operations that each
leave them. -/
theorem OtherRecordsSame.trans {l : List FunctionCode} {p q r : Processor} (h : OtherRecordsSame l p q)
    (h' : OtherRecordsSame l q r) : OtherRecordsSame l p r := by
  obtain ⟨a0, a1, a2, a3, a4, a5, a6, a7, a8, a9, a10⟩ := h
  obtain ⟨b0, b1, b2, b3, b4, b5, b6, b7, b8, b9, b10⟩ := h'
  exact ⟨fun h => (b0 h).trans (a0 h), fun h => (b1 h).trans (a1 h), fun h => (b2 h).trans (a2 h),
    fun h => (b3 h).trans (a3 h), fun h => (b4 h).trans (a4 h), fun h => (b5 h).trans (a5 h),
    fun h => (b6 h).trans (a6 h), fun h => (b7 h).trans (a7 h), fun h => (b8 h).trans (a8 h),
    fun h h' => (b9 h h').trans (a9 h h'), fun h => (b10 h).trans (a10 h)⟩

/-- More functions may be named. -/
theorem OtherRecordsSame.mono {l l' : List FunctionCode} {p q : Processor} (h : OtherRecordsSame l p q)
    (hl : ∀ x ∈ l, x ∈ l') : OtherRecordsSame l' p q := by
  obtain ⟨a0, a1, a2, a3, a4, a5, a6, a7, a8, a9, a10⟩ := h
  have t : ∀ x, x ∉ l' → x ∉ l := fun x hx hx' => hx (hl x hx')
  exact ⟨fun h => a0 (t _ h), fun h => a1 (t _ h), fun h => a2 (t _ h), fun h => a3 (t _ h),
    fun h => a4 (t _ h), fun h => a5 (t _ h), fun h => a6 (t _ h), fun h => a7 (t _ h),
    fun h => a8 (t _ h), fun h h' => a9 (t _ h) (t _ h'), fun h => a10 (t _ h)⟩

theorem otherRecordsSame_initRecord (c : Params) (f : FunctionCode) (p : Processor) :
    OtherRecordsSame [f] p (initRecord c f p) := by
  cases f <;> simp [OtherRecordsSame, initRecord]

theorem otherRecordsSame_configureRecord (c : Params) (f : FunctionCode) (p : Processor) :
    OtherRecordsSame [f] p (configureRecord c f p) := by
  cases f <;> simp [OtherRecordsSame, configureRecord]

/-- The single-sample functions keep the channel's registers, rings and pools. -/
theorem keepsChannel_processSample {c : Params} {p p' : Processor} {ctrl : U8} {s s' : Draws} {y : S16}
    (h : processSample c p ctrl s = some (p', y, s')) : KeepsChannel p p' ∧ p'.function = p.function := by
  unfold processSample at h
  split at h <;> cases h <;> exact ⟨⟨rfl, rfl, rfl, rfl, id, id⟩, rfl⟩

/-- A single-sample function exists exactly for the unbuffered functions. -/
theorem processSample_isSome (c : Params) (p : Processor) (ctrl : U8) (s : Draws) :
    (processSample c p ctrl s).isSome = !p.function.buffered := by
  unfold processSample
  split <;> simp_all [FunctionCode.buffered]

/-- The block functions keep the channel's registers, rings and pools, and return one sample per
control byte. -/
theorem keepsChannel_fillBuffer {c : Params} {p p' : Processor} {ctrl : List U8} {s s' : Draws}
    {ys : List S16} (h : fillBuffer c p ctrl s = some (p', ys, s')) :
    KeepsChannel p p' ∧ p'.function = p.function ∧ ys.length = ctrl.length := by
  unfold fillBuffer at h
  split at h <;> cases h
  case h_5 =>
    exact ⟨⟨rfl, rfl, rfl, rfl, fun h => (shaperFill_length c p.ps ctrl s).trans h, id⟩, rfl,
      renderBlock_length _ _ _⟩
  case h_6 =>
    exact ⟨⟨rfl, rfl, rfl, rfl, id, fun h => (randomizerFill_length c p.pr ctrl s).trans h⟩, rfl,
      renderBlock_length _ _ _⟩
  all_goals
    exact ⟨⟨rfl, rfl, rfl, rfl, id, id⟩, rfl, by
      first
        | exact renderBlock_length _ _ _
        | simp⟩

/-- A block function exists exactly for the buffered functions. -/
theorem fillBuffer_isSome (c : Params) (p : Processor) (ctrl : List U8) (s : Draws) :
    (fillBuffer c p ctrl s).isSome = p.function.buffered := by
  unfold fillBuffer
  split <;> simp_all [FunctionCode.buffered]

/-! `p.process` and `p.buffer`, case by case (46_processors.md rules R360 and R361). -/

theorem channelProcess_unbuffered {c : Params} {p p' : Processor} {ctrl : U8} {s s' : Draws} {y : S16}
    (h : processSample c p ctrl s = some (p', y, s')) :
    channelProcess c ctrl p s = ⟨p', s', RingEvents.none, y⟩ := by
  simp only [channelProcess, h]

theorem channelProcess_buffered (c : Params) (p : Processor) (ctrl : U8) (s : Draws)
    (h : p.function.buffered = true) :
    channelProcess c ctrl p s =
      ⟨{ p with
          inRing := (p.inRing.write c.ringCapacity ctrl).1
          outRing := (p.outRing.read c.ringCapacity 0).1 },
        s,
        ⟨false, decide (p.inRing.writable c.ringCapacity = 0), decide (p.outRing.readable c.ringCapacity = 0),
          false⟩,
        p.outRing.cells.getD p.outRing.r 0⟩ := by
  have hn := processSample_isSome c p ctrl s
  rw [h] at hn
  simp only [Bool.not_true, Option.isSome_eq_false_iff, Option.isNone_iff_eq_none] at hn
  simp only [channelProcess, hn]
  rfl

theorem channelBuffer_nothing (c : Params) (p : Processor) (s : Draws)
    (h : p.function.buffered = false ∨ p.outRing.writable c.ringCapacity < c.blockSize) :
    channelBuffer c p s = ⟨p, s, RingEvents.none, false⟩ := by
  unfold channelBuffer
  split
  · rfl
  · exact if_pos (h.resolve_left ‹_›)

/-- A block rendered: what was read, what the voice made of it, and what was written. -/
theorem channelBuffer_block (c : Params) (p : Processor) (s : Draws) (h : p.function.buffered = true)
    (h' : ¬ p.outRing.writable c.ringCapacity < c.blockSize) :
    ∃ p' ys s',
      fillBuffer c { p with inRing := (p.inRing.readMany c.ringCapacity 0 c.blockSize).1 }
        (p.inRing.readMany c.ringCapacity 0 c.blockSize).2.1 s = some (p', ys, s') ∧
      channelBuffer c p s =
        ⟨{ p' with outRing := (p.outRing.writeMany c.ringCapacity ys).1 }, s',
          ⟨(p.inRing.readMany c.ringCapacity 0 c.blockSize).2.2, false, false,
            (p.outRing.writeMany c.ringCapacity ys).2⟩, true⟩ := by
  have hs := fillBuffer_isSome c { p with inRing := (p.inRing.readMany c.ringCapacity 0 c.blockSize).1 }
    (p.inRing.readMany c.ringCapacity 0 c.blockSize).2.1 s
  rw [show FunctionCode.buffered _ = true from h] at hs
  obtain ⟨⟨p', ys, s'⟩, hf⟩ := Option.isSome_iff_exists.mp hs
  have hk := (keepsChannel_fillBuffer hf).1.outRing
  refine ⟨p', ys, s', hf, ?_⟩
  rw [channelBuffer, if_neg (by simp [h]), if_neg h']
  simp only [hf, hk]

/-- An operation on the voice records keeps `ChannelOk`. -/
theorem ChannelOk.of_keeps {c : Params} {p q : Processor} (h : ChannelOk c p) (k : KeepsChannel p q) :
    ChannelOk c q :=
  ⟨k.inRing ▸ h.1, k.outRing ▸ h.2.1, k.psLength h.2.2.1, k.prLength h.2.2.2⟩

/-- An operation on the voice records keeps the coupling of the rings. -/
theorem Coupled.of_keeps {p q : Processor} (h : Coupled p) (k : KeepsChannel p q) : Coupled q := by
  unfold Coupled
  rw [k.inRing, k.outRing]
  exact h

/-- A channel just initialised has empty rings of the right size and full pools. -/
theorem channelOk_init (c : Params) (h : 0 < c.ringCapacity) : ChannelOk c (channelInit c) :=
  ChannelOk.of_keeps (p := channelCleared c)
    ⟨ringOk_init _ _ h, ringOk_init _ _ h, by simp [channelCleared, shaperInit],
      by simp [channelCleared, randomizerInit]⟩ (keepsChannel_configure c _)

/-- The rings of a channel just initialised (46_processors.md rule R354). -/
theorem channelInit_rings (c : Params) :
    (channelInit c).inRing = Ring.init c.ringCapacity 0 ∧ (channelInit c).outRing = Ring.init c.ringCapacity 0 :=
  ⟨(keepsChannel_configure c _).inRing, (keepsChannel_configure c _).outRing⟩

end Sys2Proof.Machine
end

