-- ==== Sys2Proof/Laws/State.lean ====
section
/-! SUPPORT. What each update of the state changes and what it leaves, field by field. -/

namespace Sys2Proof.Machine

/-! Containers. -/

@[simp] theorem Pair.get_set_self {α : Type} (p : Pair α) (i : Fin 2) (x : α) : (p.set i x).get i = x := by
  match i with
  | 0 => rfl
  | 1 => rfl

theorem Pair.get_set_ne {α : Type} (p : Pair α) (i j : Fin 2) (x : α) (h : j ≠ i) :
    (p.set i x).get j = p.get j := by
  match i, j with
  | 0, 0 => exact absurd rfl h
  | 0, 1 => rfl
  | 1, 0 => rfl
  | 1, 1 => exact absurd rfl h

@[simp] theorem Triple.get_set_self {α : Type} (p : Triple α) (i : Fin 3) (x : α) :
    (p.set i x).get i = x := by
  match i with
  | 0 => rfl
  | 1 => rfl
  | 2 => rfl

theorem Triple.get_set_ne {α : Type} (p : Triple α) (i j : Fin 3) (x : α) (h : j ≠ i) :
    (p.set i x).get j = p.get j := by
  match i, j with
  | 0, 0 => exact absurd rfl h
  | 0, 1 => rfl
  | 0, 2 => rfl
  | 1, 0 => rfl
  | 1, 1 => exact absurd rfl h
  | 1, 2 => rfl
  | 2, 0 => rfl
  | 2, 1 => rfl
  | 2, 2 => exact absurd rfl h

@[simp] theorem Quad.get_set_self {α : Type} (p : Quad α) (i : Fin 4) (x : α) : (p.set i x).get i = x := by
  match i with
  | 0 => rfl
  | 1 => rfl
  | 2 => rfl
  | 3 => rfl

theorem Quad.get_set_ne {α : Type} (p : Quad α) (i j : Fin 4) (x : α) (h : j ≠ i) :
    (p.set i x).get j = p.get j := by
  match i, j with
  | 0, 0 => exact absurd rfl h
  | 0, 1 => rfl
  | 0, 2 => rfl
  | 0, 3 => rfl
  | 1, 0 => rfl
  | 1, 1 => exact absurd rfl h
  | 1, 2 => rfl
  | 1, 3 => rfl
  | 2, 0 => rfl
  | 2, 1 => rfl
  | 2, 2 => exact absurd rfl h
  | 2, 3 => rfl
  | 3, 0 => rfl
  | 3, 1 => rfl
  | 3, 2 => rfl
  | 3, 3 => exact absurd rfl h

@[simp] theorem Pair.get_same {α : Type} (x : α) (i : Fin 2) : (Pair.same x).get i = x := by
  match i with
  | 0 => rfl
  | 1 => rfl

@[simp] theorem Triple.get_same {α : Type} (x : α) (i : Fin 3) : (Triple.same x).get i = x := by
  match i with
  | 0 => rfl
  | 1 => rfl
  | 2 => rfl

@[simp] theorem Quad.get_same {α : Type} (x : α) (i : Fin 4) : (Quad.same x).get i = x := by
  match i with
  | 0 => rfl
  | 1 => rfl
  | 2 => rfl
  | 3 => rfl

/-! `withOsc` -/

@[simp] theorem State.withOsc_sys (s : State) (o : Oscillator) : (s.withOsc o).sys = s.sys := rfl

@[simp] theorem State.withOsc_p0 (s : State) (o : Oscillator) : (s.withOsc o).p0 = s.p0 := rfl

@[simp] theorem State.withOsc_p1 (s : State) (o : Oscillator) : (s.withOsc o).p1 = s.p1 := rfl

@[simp] theorem State.withOsc_osc (s : State) (o : Oscillator) : (s.withOsc o).osc = o := rfl

@[simp] theorem State.withOsc_hostPort (s : State) (o : Oscillator) :
    (s.withOsc o).hostPort = s.hostPort := rfl

@[simp] theorem State.withOsc_pending (s : State) (o : Oscillator) :
    (s.withOsc o).pending = s.pending := rfl

@[simp] theorem State.withOsc_response (s : State) (o : Oscillator) :
    (s.withOsc o).response = s.response := rfl

@[simp] theorem State.withOsc_freeCount (s : State) (o : Oscillator) :
    (s.withOsc o).freeCount = s.freeCount := rfl

/-! `withHostPort` -/

@[simp] theorem State.withHostPort_sys (s : State) (m : Memory) : (s.withHostPort m).sys = s.sys := rfl

@[simp] theorem State.withHostPort_p0 (s : State) (m : Memory) : (s.withHostPort m).p0 = s.p0 := rfl

@[simp] theorem State.withHostPort_p1 (s : State) (m : Memory) : (s.withHostPort m).p1 = s.p1 := rfl

@[simp] theorem State.withHostPort_osc (s : State) (m : Memory) : (s.withHostPort m).osc = s.osc := rfl

@[simp] theorem State.withHostPort_hostPort (s : State) (m : Memory) :
    (s.withHostPort m).hostPort = m := rfl

@[simp] theorem State.withHostPort_pending (s : State) (m : Memory) :
    (s.withHostPort m).pending = s.pending := rfl

@[simp] theorem State.withHostPort_response (s : State) (m : Memory) :
    (s.withHostPort m).response = s.response := rfl

@[simp] theorem State.withHostPort_freeCount (s : State) (m : Memory) :
    (s.withHostPort m).freeCount = s.freeCount := rfl

/-! `withStatus` -/

@[simp] theorem State.withStatus_sys (s : State) (st : U32) :
    (s.withStatus st).sys = { s.sys with status := st } := rfl

@[simp] theorem State.withStatus_p0 (s : State) (st : U32) : (s.withStatus st).p0 = s.p0 := rfl

@[simp] theorem State.withStatus_p1 (s : State) (st : U32) : (s.withStatus st).p1 = s.p1 := rfl

@[simp] theorem State.withStatus_osc (s : State) (st : U32) : (s.withStatus st).osc = s.osc := rfl

@[simp] theorem State.withStatus_hostPort (s : State) (st : U32) :
    (s.withStatus st).hostPort = s.hostPort := rfl

@[simp] theorem State.withStatus_pending (s : State) (st : U32) :
    (s.withStatus st).pending = s.pending := rfl

@[simp] theorem State.withStatus_response (s : State) (st : U32) :
    (s.withStatus st).response = s.response := rfl

@[simp] theorem State.withStatus_freeCount (s : State) (st : U32) :
    (s.withStatus st).freeCount = s.freeCount := rfl

/-! `withDacOffset` -/

@[simp] theorem State.withDacOffset_sys (s : State) (ch : Fin 2) (off : S16) :
    (s.withDacOffset ch off).sys = { s.sys with dacOffset := s.sys.dacOffset.set ch off } := rfl

@[simp] theorem State.withDacOffset_p0 (s : State) (ch : Fin 2) (off : S16) :
    (s.withDacOffset ch off).p0 = s.p0 := rfl

@[simp] theorem State.withDacOffset_p1 (s : State) (ch : Fin 2) (off : S16) :
    (s.withDacOffset ch off).p1 = s.p1 := rfl

@[simp] theorem State.withDacOffset_osc (s : State) (ch : Fin 2) (off : S16) :
    (s.withDacOffset ch off).osc = s.osc := rfl

@[simp] theorem State.withDacOffset_hostPort (s : State) (ch : Fin 2) (off : S16) :
    (s.withDacOffset ch off).hostPort = s.hostPort := rfl

@[simp] theorem State.withDacOffset_pending (s : State) (ch : Fin 2) (off : S16) :
    (s.withDacOffset ch off).pending = s.pending := rfl

@[simp] theorem State.withDacOffset_response (s : State) (ch : Fin 2) (off : S16) :
    (s.withDacOffset ch off).response = s.response := rfl

@[simp] theorem State.withDacOffset_freeCount (s : State) (ch : Fin 2) (off : S16) :
    (s.withDacOffset ch off).freeCount = s.freeCount := rfl

/-! `withDraws` -/

@[simp] theorem State.withDraws_sys (s : State) (d : Draws) :
    (s.withDraws d).sys = { s.sys with rng := d.rng } := rfl

@[simp] theorem State.withDraws_p0 (s : State) (d : Draws) : (s.withDraws d).p0 = s.p0 := rfl

@[simp] theorem State.withDraws_p1 (s : State) (d : Draws) : (s.withDraws d).p1 = s.p1 := rfl

@[simp] theorem State.withDraws_osc (s : State) (d : Draws) : (s.withDraws d).osc = s.osc := rfl

@[simp] theorem State.withDraws_hostPort (s : State) (d : Draws) :
    (s.withDraws d).hostPort = s.hostPort := rfl

@[simp] theorem State.withDraws_pending (s : State) (d : Draws) : (s.withDraws d).pending = s.pending := rfl

@[simp] theorem State.withDraws_response (s : State) (d : Draws) :
    (s.withDraws d).response = s.response := rfl

@[simp] theorem State.withDraws_freeCount (s : State) (d : Draws) :
    (s.withDraws d).freeCount = d.free := rfl

/-! `withExc` -/

@[simp] theorem State.withExc_sys (s : State) (k : Fin 4) (e : Excitation) :
    (s.withExc k e).sys = s.sys := rfl

@[simp] theorem State.withExc_p0 (s : State) (k : Fin 4) (e : Excitation) : (s.withExc k e).p0 = s.p0 := rfl

@[simp] theorem State.withExc_p1 (s : State) (k : Fin 4) (e : Excitation) : (s.withExc k e).p1 = s.p1 := rfl

@[simp] theorem State.withExc_osc (s : State) (k : Fin 4) (e : Excitation) :
    (s.withExc k e).osc = { s.osc with exc := s.osc.exc.set k e } := rfl

@[simp] theorem State.withExc_hostPort (s : State) (k : Fin 4) (e : Excitation) :
    (s.withExc k e).hostPort = s.hostPort := rfl

@[simp] theorem State.withExc_pending (s : State) (k : Fin 4) (e : Excitation) :
    (s.withExc k e).pending = s.pending := rfl

@[simp] theorem State.withExc_response (s : State) (k : Fin 4) (e : Excitation) :
    (s.withExc k e).response = s.response := rfl

@[simp] theorem State.withExc_freeCount (s : State) (k : Fin 4) (e : Excitation) :
    (s.withExc k e).freeCount = s.freeCount := rfl

/-! `withSvf` -/

@[simp] theorem State.withSvf_sys (s : State) (k : Fin 3) (v : Svf) : (s.withSvf k v).sys = s.sys := rfl

@[simp] theorem State.withSvf_p0 (s : State) (k : Fin 3) (v : Svf) : (s.withSvf k v).p0 = s.p0 := rfl

@[simp] theorem State.withSvf_p1 (s : State) (k : Fin 3) (v : Svf) : (s.withSvf k v).p1 = s.p1 := rfl

@[simp] theorem State.withSvf_osc (s : State) (k : Fin 3) (v : Svf) :
    (s.withSvf k v).osc = { s.osc with svf := s.osc.svf.set k v } := rfl

@[simp] theorem State.withSvf_hostPort (s : State) (k : Fin 3) (v : Svf) :
    (s.withSvf k v).hostPort = s.hostPort := rfl

@[simp] theorem State.withSvf_pending (s : State) (k : Fin 3) (v : Svf) :
    (s.withSvf k v).pending = s.pending := rfl

@[simp] theorem State.withSvf_response (s : State) (k : Fin 3) (v : Svf) :
    (s.withSvf k v).response = s.response := rfl

@[simp] theorem State.withSvf_freeCount (s : State) (k : Fin 3) (v : Svf) :
    (s.withSvf k v).freeCount = s.freeCount := rfl

/-! `respond` -/

@[simp] theorem State.respond_sys (s : State) (kind : ResponseKind) (value : U32) :
    (s.respond kind value).sys = s.sys := rfl

@[simp] theorem State.respond_p0 (s : State) (kind : ResponseKind) (value : U32) :
    (s.respond kind value).p0 = s.p0 := rfl

@[simp] theorem State.respond_p1 (s : State) (kind : ResponseKind) (value : U32) :
    (s.respond kind value).p1 = s.p1 := rfl

@[simp] theorem State.respond_osc (s : State) (kind : ResponseKind) (value : U32) :
    (s.respond kind value).osc = s.osc := rfl

@[simp] theorem State.respond_hostPort (s : State) (kind : ResponseKind) (value : U32) :
    (s.respond kind value).hostPort = s.hostPort := rfl

@[simp] theorem State.respond_pending (s : State) (kind : ResponseKind) (value : U32) :
    (s.respond kind value).pending = s.pending := rfl

@[simp] theorem State.respond_response (s : State) (kind : ResponseKind) (value : U32) :
    (s.respond kind value).response = ⟨kind, value⟩ := rfl

@[simp] theorem State.respond_freeCount (s : State) (kind : ResponseKind) (value : U32) :
    (s.respond kind value).freeCount = s.freeCount := rfl

/-! `ok` -/

@[simp] theorem State.ok_sys (s : State) (value : U32) : (s.ok value).sys = s.sys := rfl

@[simp] theorem State.ok_p0 (s : State) (value : U32) : (s.ok value).p0 = s.p0 := rfl

@[simp] theorem State.ok_p1 (s : State) (value : U32) : (s.ok value).p1 = s.p1 := rfl

@[simp] theorem State.ok_osc (s : State) (value : U32) : (s.ok value).osc = s.osc := rfl

@[simp] theorem State.ok_hostPort (s : State) (value : U32) : (s.ok value).hostPort = s.hostPort := rfl

@[simp] theorem State.ok_pending (s : State) (value : U32) : (s.ok value).pending = s.pending := rfl

@[simp] theorem State.ok_response (s : State) (value : U32) : (s.ok value).response = ⟨.ok, value⟩ := rfl

@[simp] theorem State.ok_freeCount (s : State) (value : U32) : (s.ok value).freeCount = s.freeCount := rfl

/-! `withProc` -/

@[simp] theorem State.withProc_sys (s : State) (ch : Chan) (p : Processor) :
    (s.withProc ch p).sys = s.sys := by
  cases ch <;> rfl

@[simp] theorem State.withProc_osc (s : State) (ch : Chan) (p : Processor) :
    (s.withProc ch p).osc = s.osc := by
  cases ch <;> rfl

@[simp] theorem State.withProc_hostPort (s : State) (ch : Chan) (p : Processor) :
    (s.withProc ch p).hostPort = s.hostPort := by
  cases ch <;> rfl

@[simp] theorem State.withProc_pending (s : State) (ch : Chan) (p : Processor) :
    (s.withProc ch p).pending = s.pending := by
  cases ch <;> rfl

@[simp] theorem State.withProc_response (s : State) (ch : Chan) (p : Processor) :
    (s.withProc ch p).response = s.response := by
  cases ch <;> rfl

@[simp] theorem State.withProc_freeCount (s : State) (ch : Chan) (p : Processor) :
    (s.withProc ch p).freeCount = s.freeCount := by
  cases ch <;> rfl

@[simp] theorem State.proc_withProc (s : State) (ch : Chan) (p : Processor) :
    (s.withProc ch p).proc ch = p := by
  cases ch <;> rfl

theorem State.proc_withProc_ne (s : State) (ch ch' : Chan) (p : Processor) (h : ch' ≠ ch) :
    (s.withProc ch p).proc ch' = s.proc ch' := by
  cases ch <;> cases ch' <;> first | rfl | exact absurd rfl h

@[simp] theorem State.proc_ok (s : State) (value : U32) (ch : Chan) :
    (s.ok value).proc ch = s.proc ch := by
  cases ch <;> rfl

@[simp] theorem State.proc_respond (s : State) (kind : ResponseKind) (value : U32) (ch : Chan) :
    (s.respond kind value).proc ch = s.proc ch := by
  cases ch <;> rfl

@[simp] theorem State.proc_withStatus (s : State) (st : U32) (ch : Chan) :
    (s.withStatus st).proc ch = s.proc ch := by
  cases ch <;> rfl

@[simp] theorem State.proc_withDraws (s : State) (d : Draws) (ch : Chan) :
    (s.withDraws d).proc ch = s.proc ch := by
  cases ch <;> rfl

@[simp] theorem State.proc_withOsc (s : State) (o : Oscillator) (ch : Chan) :
    (s.withOsc o).proc ch = s.proc ch := by
  cases ch <;> rfl

@[simp] theorem State.proc_withHostPort (s : State) (m : Memory) (ch : Chan) :
    (s.withHostPort m).proc ch = s.proc ch := by
  cases ch <;> rfl

/-! Halted. -/

@[simp] theorem State.halted_ok (s : State) (v : U32) : (s.ok v).halted = s.halted := rfl

@[simp] theorem State.halted_respond (s : State) (k : ResponseKind) (v : U32) :
    (s.respond k v).halted = s.halted := rfl

theorem State.halted_pending (s : State) (p : List Command) :
    ({ s with pending := p } : State).halted = s.halted := rfl

end Sys2Proof.Machine
end

