-- ==== Sys2Proof/Laws/Faults.lean ====
section
/-! SUPPORT. The status word, fault entry, the halted state and the taking of a command: what each can do. -/

namespace Sys2Proof.Machine

open Sys2Proof.Config

/-! The status word. -/

/-- Fault entry sets FAULTED. -/
@[simp] theorem statusFaulted_onFault (st : U32) (cause : Cause) :
    statusFaulted (statusOnFault st cause) = true := by
  cases cause <;> simp [statusFaulted, statusOnFault, Cause.code]

/-- Fault entry sets FAULT_CAUSE. -/
@[simp] theorem statusCause_onFault (st : U32) (cause : Cause) :
    (statusCause (statusOnFault st cause)).toNat = cause.code := by
  have h : statusCause (statusOnFault st cause) = BitVec.ofNat 4 cause.code := by
    apply BitVec.eq_of_getLsbD_eq
    intro i hi
    interval_cases i <;> cases cause <;> simp [statusCause, statusOnFault, Cause.code]
  rw [h]
  cases cause <;> rfl

/-- Fault entry leaves every other bit of the status. -/
theorem getLsbD_onFault (st : U32) (cause : Cause) (b : Nat) (h0 : b ≠ 0) (hc : ¬ (4 ≤ b ∧ b ≤ 7)) :
    (statusOnFault st cause).getLsbD b = st.getLsbD b := by
  by_cases hb : b < 32
  · interval_cases b <;> first | exact absurd rfl h0 | omega | skip
    all_goals cases cause <;> simp [statusOnFault, Cause.code]
  · simp [show 32 ≤ b by omega]

/-- A ring event never clears a status bit. -/
theorem getLsbD_onRing_of_set (st : U32) (ch : Chan) (e : RingEvents) (b : Nat) (h : st.getLsbD b = true) :
    (statusOnRing st ch e).getLsbD b = true := by
  simp [statusOnRing, h]

/-- The four bits of a channel's events are below 16. -/
theorem RingEvents.bits_lt (e : RingEvents) : e.bits < 16 := by
  obtain ⟨a, b, c, d⟩ := e
  cases a <;> cases b <;> cases c <;> cases d <;> decide

/-- A ring event changes no status bit outside the channel's four flags. -/
theorem getLsbD_onRing_outside (st : U32) (ch : Chan) (e : RingEvents) (b : Nat)
    (h : b < ringFlagBase ch ∨ ringFlagBase ch + 4 ≤ b) :
    (statusOnRing st ch e).getLsbD b = st.getLsbD b := by
  by_cases hb : b < 32
  · have he := e.bits_lt
    have : (e.bits <<< ringFlagBase ch).testBit b = false := by
      rw [Nat.testBit_shiftLeft]
      rcases h with h | h
      · simp [show ¬ ringFlagBase ch ≤ b by omega]
      · rw [Nat.testBit_lt_two_pow (Nat.lt_of_lt_of_le he (Nat.pow_le_pow_right (n := 2) (by decide)
          (by omega : 4 ≤ b - ringFlagBase ch)))]
        simp
    simp only [statusOnRing, BitVec.getLsbD_or, BitVec.getLsbD_ofNat, this]
    simp
  · simp [show 32 ≤ b by omega]

/-- Every bit of the status after ring events: as before, or the flag of an event that happened. -/
theorem getLsbD_onRing (st : U32) (ch : Chan) (e : RingEvents) (b : Nat) :
    (statusOnRing st ch e).getLsbD b =
      (st.getLsbD b || (decide (b = ringFlagBase ch) && e.inUnderrun) ||
        (decide (b = ringFlagBase ch + 1) && e.inOverrun) || (decide (b = ringFlagBase ch + 2) && e.outUnderrun) ||
        (decide (b = ringFlagBase ch + 3) && e.outOverrun)) := by
  by_cases hb : b < 32
  · have h : ∀ (x y z u : Bool) (ch : Chan) (i : Fin 32),
        (BitVec.ofNat 32 ((RingEvents.bits ⟨x, y, z, u⟩) <<< ringFlagBase ch)).getLsbD i =
          ((decide (i.val = ringFlagBase ch) && x) || (decide (i.val = ringFlagBase ch + 1) && y) ||
            (decide (i.val = ringFlagBase ch + 2) && z) || (decide (i.val = ringFlagBase ch + 3) && u)) := by
      intro x y z u ch
      cases ch <;> cases x <;> cases y <;> cases z <;> cases u <;> decide
    have he := h e.inUnderrun e.inOverrun e.outUnderrun e.outOverrun ch ⟨b, hb⟩
    rw [show (⟨e.inUnderrun, e.inOverrun, e.outUnderrun, e.outOverrun⟩ : RingEvents) = e from rfl] at he
    simp only [statusOnRing, BitVec.getLsbD_or]
    rw [he]
    simp [Bool.or_assoc]
  · have h : ringFlagBase ch ≤ 12 := by cases ch <;> decide
    simp [show 32 ≤ b by omega, show b ≠ ringFlagBase ch by omega, show b ≠ ringFlagBase ch + 1 by omega,
      show b ≠ ringFlagBase ch + 2 by omega, show b ≠ ringFlagBase ch + 3 by omega]

/-- Ring events leave FAULTED. -/
@[simp] theorem statusFaulted_onRing (st : U32) (ch : Chan) (e : RingEvents) :
    statusFaulted (statusOnRing st ch e) = statusFaulted st :=
  getLsbD_onRing_outside st ch e 0 (.inl (by cases ch <;> decide))

/-- Ring events leave FAULT_CAUSE. -/
@[simp] theorem statusCause_onRing (st : U32) (ch : Chan) (e : RingEvents) :
    statusCause (statusOnRing st ch e) = statusCause st := by
  apply BitVec.eq_of_getLsbD_eq
  intro i hi
  simp only [statusCause, BitVec.getLsbD_extractLsb', hi, decide_true, Bool.true_and]
  exact getLsbD_onRing_outside st ch e _ (.inl (by cases ch <;> simp only [ringFlagBase] <;> omega))

/-- No event, no change. -/
@[simp] theorem statusOnRing_none (st : U32) (ch : Chan) : statusOnRing st ch RingEvents.none = st := by
  cases ch <;> simp [statusOnRing, RingEvents.none, RingEvents.bits]

/-! Faults. -/

/-- Fault entry, when the block is not halted, is that of 60_exceptions.md rule R452. -/
theorem tookFault_raiseFault (cause : Cause) (word : Command) (s : State) (h : s.halted = false) :
    TookFault cause word s (raiseFault cause word s) := by
  simp only [raiseFault, h, TookFault, SameChannels, SameMemory]
  refine ⟨by simp, by simp, fun b hb hc => getLsbD_onFault _ _ _ hb hc, ?_⟩
  simp

/-- A halted block makes no second entry: it only responds (rule R453). -/
theorem raiseFault_halted (cause : Cause) (word : Command) (s : State) (h : s.halted = true) :
    raiseFault cause word s = s.respond .fault (BitVec.ofNat 32 cause.code) := by
  simp [raiseFault, h]

theorem whenRunning_running (s after : State) (h : s.halted = false) : whenRunning s after = after := by
  simp [whenRunning, h]

theorem whenRunning_halted (s after : State) (h : s.halted = true) :
    whenRunning s after = s.respond .halted 0 := by
  simp [whenRunning, h]

/-! Taking a command: every case of it. -/

theorem takeCommand_idle (s : State) (h : s.pending = []) : takeCommand s = .idle := by
  simp [takeCommand, h]

/-- A halted block refuses the command without decoding it. -/
theorem takeCommand_halted (s : State) (w : Command) (rest : List Command) (h : s.pending = w :: rest)
    (hh : s.halted = true) (ha : acceptedHalted w = false) :
    takeCommand s = .settled (({ s with pending := rest } : State).respond .halted 0) := by
  simp [takeCommand, h, State.halted_pending, hh, ha]

/-- An illegal word is settled by its fault. -/
theorem takeCommand_illegal (s : State) (w : Command) (rest : List Command) (cause : Cause)
    (h : s.pending = w :: rest) (hh : s.halted = false ∨ acceptedHalted w = true)
    (hd : decode w = .error cause) :
    takeCommand s = .settled (raiseFault cause w { s with pending := rest }) := by
  rcases hh with hh | hh <;> simp [takeCommand, h, State.halted_pending, hh, hd]

/-- A word that decodes is run. -/
theorem takeCommand_run (s : State) (w : Command) (rest : List Command) (i : Instr)
    (h : s.pending = w :: rest) (hh : s.halted = false ∨ acceptedHalted w = true)
    (hd : decode w = .ok i) : takeCommand s = .run i { s with pending := rest } := by
  rcases hh with hh | hh <;> simp [takeCommand, h, State.halted_pending, hh, hd]

end Sys2Proof.Machine
end

