-- ==== Sys2Proof/Laws/Memory.lean ====
section
/-! SUPPORT. The host-port memory: what a read gives after a write, and that every operation keeps the
canonical form and lists only mapped addresses. -/

namespace Sys2Proof.Machine

/-- An address below every listed one reads as unlisted. -/
theorem Memory.read_below (m : Memory) (a : Nat) (h : ∀ x ∈ m, a < x.1) : m.read a = 0 := by
  induction m with
  | nil => rfl
  | cons x m ih =>
    have hx := h x (by simp)
    simp only [Memory.read, if_neg (by omega : ¬ a = x.1)]
    exact ih fun y hy => h y (by simp [hy])

/-- The entries after a write are old ones or the new one. -/
theorem Memory.mem_write (m : Memory) (a : Nat) (v : U8) (x : Host.Cell) (h : x ∈ m.write a v) :
    x ∈ m ∨ (x = (a, v) ∧ v ≠ 0) := by
  induction m with
  | nil =>
    by_cases hv : v = 0 <;> simp_all [Memory.write]
  | cons y m ih =>
    simp only [Memory.write] at h
    split at h
    · split at h
      · exact .inl h
      · rcases List.mem_cons.mp h with h | h
        · exact .inr ⟨h, ‹_›⟩
        · exact .inl h
    · split at h
      · split at h
        · exact .inl (by simp [h])
        · rcases List.mem_cons.mp h with h | h
          · exact .inr ⟨h, ‹_›⟩
          · exact .inl (by simp [h])
      · rcases List.mem_cons.mp h with h | h
        · exact .inl (by simp [h])
        · rcases ih h with h | h
          · exact .inl (by simp [h])
          · exact .inr h

/-- A write keeps the canonical form. -/
theorem Memory.wf_write (m : Memory) (a : Nat) (v : U8) (h : m.wf) : (m.write a v).wf := by
  refine ⟨?_, fun x hx => ?_⟩
  · have hp := h.1
    clear h
    induction m with
    | nil =>
      simp only [Memory.write]
      split <;> simp
    | cons y m ih =>
      rw [List.pairwise_cons] at hp
      simp only [Memory.write]
      split
      · split
        · exact List.pairwise_cons.mpr hp
        · refine List.pairwise_cons.mpr ⟨fun x hx => ?_, List.pairwise_cons.mpr hp⟩
          rcases List.mem_cons.mp hx with rfl | hx
          · assumption
          · have := hp.1 x hx
            show a < x.1
            omega
      · split
        · split
          · exact hp.2
          · refine List.pairwise_cons.mpr ⟨fun x hx => ?_, hp.2⟩
            have := hp.1 x hx
            show a < x.1
            omega
        · refine List.pairwise_cons.mpr ⟨fun x hx => ?_, ih hp.2⟩
          rcases Memory.mem_write m a v x hx with hx | ⟨rfl, -⟩
          · exact hp.1 x hx
          · show y.1 < a
            omega
  · rcases Memory.mem_write m a v x hx with hx | ⟨rfl, hv⟩
    · exact h.2 x hx
    · exact hv

/-- A read gives the byte last written at its address, and else what it gave before. -/
theorem Memory.read_write (m : Memory) (a b : Nat) (v : U8) (h : m.wf) :
    (m.write a v).read b = if b = a then v else m.read b := by
  have hp := h.1
  clear h
  induction m with
  | nil =>
    simp only [Memory.write]
    split
    · rename_i hv
      by_cases hb : b = a <;> simp [Memory.read, hv, hb]
    · by_cases hb : b = a <;> simp [Memory.read, hb]
  | cons y m ih =>
    rw [List.pairwise_cons] at hp
    have below : ∀ b, b ≤ y.1 → Memory.read m b = 0 := fun b hb =>
      Memory.read_below m b fun x hx => by have := hp.1 x hx; omega
    simp only [Memory.write]
    split
    · rename_i hay
      split
      · rename_i hv
        split
        · rename_i hba
          subst hba
          simp only [Memory.read, if_neg (by omega : ¬ b = y.1)]
          rw [below b (by omega), hv]
        · rfl
      · by_cases hba : b = a
        · simp [Memory.read, hba]
        · simp [Memory.read, hba]
    · split
      · rename_i _ hay
        split
        · rename_i hv
          split
          · rename_i hba
            rw [hba, below a (by omega), hv]
          · rename_i hba
            simp [Memory.read, show ¬ b = y.1 by omega]
        · by_cases hba : b = a
          · simp [Memory.read, hba]
          · simp [Memory.read, hba, show ¬ b = y.1 by omega]
      · simp only [Memory.read]
        by_cases hby : b = y.1
        · simp [hby, show ¬ y.1 = a by omega]
        · simp only [if_neg hby]
          exact ih hp.2

/-- A write at another address leaves a byte alone, whatever the form of the memory. -/
theorem Memory.read_write_other (m : Memory) (a b : Nat) (v : U8) (h : b ≠ a) :
    (m.write a v).read b = m.read b := by
  induction m with
  | nil =>
    simp only [Memory.write]
    split
    · rfl
    · simp [Memory.read, h]
  | cons y m ih =>
    simp only [Memory.write]
    split
    · split
      · rfl
      · simp [Memory.read, h]
    · split
      · split
        · simp [Memory.read, show ¬ b = y.1 by omega]
        · simp [Memory.read, h, show ¬ b = y.1 by omega]
      · simp only [Memory.read, ih]

/-- A write to a mapped address keeps `MemoryOk`. -/
theorem MemoryOk.write {m : Memory} (h : MemoryOk m) (a : Nat) (v : U8) (ha : a < 768) :
    MemoryOk (m.write a v) := by
  refine ⟨Memory.wf_write m a v h.1, fun x hx => ?_⟩
  rcases Memory.mem_write m a v x hx with hx | ⟨rfl, -⟩
  · exact h.2 x hx
  · exact ha

/-! 16-bit accesses. -/

/-- A 16-bit write keeps the canonical form. -/
theorem Memory.wf_write16 (m : Memory) (a : Nat) (v : U16) (h : m.wf) : (m.write16 a v).wf :=
  Memory.wf_write _ _ _ (Memory.wf_write _ _ _ h)

/-- The byte at every address after a 16-bit write (20_memory.md rule R86). -/
theorem Memory.read_write16 (m : Memory) (a b : Nat) (v : U16) (h : m.wf) :
    (m.write16 a v).read b =
      if b = a then v.extractLsb' 0 8 else if b = a + 1 then v.extractLsb' 8 8 else m.read b := by
  rw [Memory.write16, Memory.read_write _ _ _ _ (Memory.wf_write _ _ _ h), Memory.read_write _ _ _ _ h]
  by_cases hb : b = a
  · simp [hb]
  · by_cases hb' : b = a + 1 <;> simp [hb, hb']

/-- A 16-bit write leaves every byte but its two alone, whatever the form of the memory. -/
theorem Memory.read_write16_other (m : Memory) (a b : Nat) (v : U16) (h : b ≠ a) (h' : b ≠ a + 1) :
    (m.write16 a v).read b = m.read b := by
  rw [Memory.write16, Memory.read_write_other _ _ _ _ h', Memory.read_write_other _ _ _ _ h]

/-- A 16-bit read gives the halfword last written at its address. -/
theorem Memory.read16_write16 (m : Memory) (a : Nat) (v : U16) (h : m.wf) :
    (m.write16 a v).read16 a = v := by
  rw [Memory.read16, Memory.read_write16 _ _ _ _ h, Memory.read_write16 _ _ _ _ h]
  simp only [if_true, if_neg (by omega : ¬ a + 1 = a)]
  apply BitVec.eq_of_getLsbD_eq
  intro i hi
  rw [BitVec.getLsbD_append]
  by_cases h8 : i < 8
  · simp [h8]
  · simp [h8, show i - 8 < 8 by omega, show 8 + (i - 8) = i by omega]

/-- A 16-bit write to mapped addresses keeps `MemoryOk`. -/
theorem MemoryOk.write16 {m : Memory} (h : MemoryOk m) (a : Nat) (v : U16) (ha : a + 1 < 768) :
    MemoryOk (m.write16 a v) :=
  (h.write a _ (by omega)).write (a + 1) _ ha

/-! The block writes of a render. -/

/-- The writes of samples `i`, `i + 1`, … leave every byte outside their words alone. -/
theorem Memory.read_writeOut_other (m : Memory) (i b : Nat) (ys : List S16)
    (h : b < outAddress i ∨ outAddress (i + ys.length) ≤ b) : (m.writeOut i ys).read b = m.read b := by
  induction ys generalizing m i with
  | nil => rfl
  | cons y ys ih =>
    simp only [outAddress, List.length_cons] at h
    rw [Memory.writeOut, ih _ (i + 1) (by simp only [outAddress]; omega),
      Memory.read_write16_other _ _ _ _ (by simp only [outAddress]; omega)
        (by simp only [outAddress]; omega)]

/-- The writes of a render keep the canonical form. -/
theorem Memory.wf_writeOut (m : Memory) (i : Nat) (ys : List S16) (h : m.wf) : (m.writeOut i ys).wf := by
  induction ys generalizing m i with
  | nil => exact h
  | cons y ys ih => exact ih _ _ (Memory.wf_write16 _ _ _ h)

/-- The writes of a render inside OUT_BUF keep `MemoryOk`. -/
theorem MemoryOk.writeOut {m : Memory} (h : MemoryOk m) (i : Nat) (ys : List S16)
    (hi : i + ys.length ≤ 256) : MemoryOk (m.writeOut i ys) := by
  induction ys generalizing m i with
  | nil => exact h
  | cons y ys ih =>
    simp only [List.length_cons] at hi
    exact ih (h.write16 _ _ (by simp only [outAddress]; omega)) _ (by omega)

/-- OUT_BUF word `i + j` holds sample `j` after the writes of samples `i`, `i + 1`, …. -/
theorem Memory.read16_writeOut (m : Memory) (i j : Nat) (ys : List S16) (h : m.wf) (hj : j < ys.length) :
    (m.writeOut i ys).read16 (outAddress (i + j)) = ys.getD j 0 := by
  induction ys generalizing m i j with
  | nil => simp at hj
  | cons y ys ih =>
    rw [Memory.writeOut]
    cases j with
    | zero =>
      have h1 := Memory.read_writeOut_other (m.write16 (outAddress i) y) (i + 1) (outAddress i) ys
        (.inl (by simp only [outAddress]; omega))
      have h2 := Memory.read_writeOut_other (m.write16 (outAddress i) y) (i + 1) (outAddress i + 1) ys
        (.inl (by simp only [outAddress]; omega))
      rw [show i + 0 = i from rfl, Memory.read16, h1, h2, ← Memory.read16, Memory.read16_write16 _ _ _ h]
      rfl
    | succ j =>
      have := ih (m.write16 (outAddress i) y) (i + 1) j (Memory.wf_write16 _ _ _ h)
        (by simpa using hj)
      rw [show i + (j + 1) = i + 1 + j by omega, this]
      simp

/-- The reset memory is in canonical form and lists nothing. -/
theorem reset_memoryOk : MemoryOk State.reset.hostPort :=
  ⟨⟨List.Pairwise.nil, by simp [State.reset, State.resetWith]⟩, by simp [State.reset, State.resetWith]⟩

end Sys2Proof.Machine
end

