-- ==== Sys2Proof/Laws/Operands.lean ====
section
/-! SUPPORT. The operand forms: what each accepts, and that the checks the meanings make are those of
60_exceptions.md rule R451 as WellFormed.lean states them. -/

namespace Sys2Proof.Machine

open Sys2Proof.Config

/-! What each operand form accepts. -/

/-- An index below the bound is accepted. -/
theorem indexBelow_of_lt {n : Nat} {sub : BitVec 4} {k : Fin n} (h : sub.toNat = k.val) :
    indexBelow n sub = some k := by
  have := k.isLt
  simp only [indexBelow, h, this, dif_pos]

/-- An index at or above the bound is refused. -/
theorem indexBelow_of_ge {n : Nat} {sub : BitVec 4} (h : n ≤ sub.toNat) : indexBelow n sub = none := by
  simp only [indexBelow, dif_neg (by omega : ¬ sub.toNat < n)]

theorem paramIndex_of_lt {sub : BitVec 4} {k : Fin 4} (h : sub.toNat = k.val) : paramIndex sub = some k :=
  indexBelow_of_lt h

theorem paramIndex_of_ge {sub : BitVec 4} (h : 4 ≤ sub.toNat) : paramIndex sub = none := indexBelow_of_ge h

theorem excIndex_of_lt {sub : BitVec 4} {k : Fin 4} (h : sub.toNat = k.val) : excIndex sub = some k :=
  indexBelow_of_lt h

theorem excIndex_of_ge {sub : BitVec 4} (h : 4 ≤ sub.toNat) : excIndex sub = none := indexBelow_of_ge h

theorem svfIndex_of_lt {sub : BitVec 4} {k : Fin 3} (h : sub.toNat = k.val) : svfIndex sub = some k :=
  indexBelow_of_lt h

theorem svfIndex_of_ge {sub : BitVec 4} (h : 3 ≤ sub.toNat) : svfIndex sub = none := indexBelow_of_ge h

theorem dacChannel_of_lt {sub : BitVec 4} {k : Fin 2} (h : sub.toNat = k.val) : dacChannel sub = some k :=
  indexBelow_of_lt h

theorem dacChannel_of_ge {sub : BitVec 4} (h : 2 ≤ sub.toNat) : dacChannel sub = none := indexBelow_of_ge h

/-- A function code is accepted exactly when it is below 12, and it is the function's code. -/
theorem functionOf_eq_some {code : U16} {f : FunctionCode} : functionOf code = some f ↔ code.toNat = f.code := by
  constructor
  · intro h
    unfold functionOf at h
    split at h <;> simp_all [FunctionCode.code] <;> subst h <;> rfl
  · intro h
    unfold functionOf
    rw [h]
    cases f <;> rfl

theorem functionOf_eq_none {code : U16} : functionOf code = none ↔ 12 ≤ code.toNat := by
  constructor
  · intro h
    unfold functionOf at h
    split at h
    all_goals cases h
    by_contra hlt
    generalize code.toNat = n at *
    have hn : n < 12 := by omega
    interval_cases n <;> simp_all
  · intro h
    unfold functionOf
    split
    all_goals first
      | omega
      | rfl

theorem controlModeOf_eq_some {code : U16} {m : ControlMode} :
    controlModeOf code = some m ↔ code.toNat = m.code := by
  constructor
  · intro h
    unfold controlModeOf at h
    split at h <;> simp_all [ControlMode.code] <;> subst h <;> rfl
  · intro h
    unfold controlModeOf
    rw [h]
    cases m <;> rfl

theorem controlModeOf_eq_none {code : U16} : controlModeOf code = none ↔ 2 ≤ code.toNat := by
  constructor
  · intro h
    unfold controlModeOf at h
    split at h
    all_goals cases h
    by_contra hlt
    generalize code.toNat = n at *
    have hn : n < 2 := by omega
    interval_cases n <;> simp_all
  · intro h
    unfold controlModeOf
    split
    all_goals first
      | omega
      | rfl

theorem svfModeOf_eq_none {code : U16} : svfModeOf code = none ↔ 4 ≤ code.toNat := by
  constructor
  · intro h
    unfold svfModeOf at h
    split at h
    all_goals cases h
    by_contra hlt
    generalize code.toNat = n at *
    have hn : n < 4 := by omega
    interval_cases n <;> simp_all
  · intro h
    unfold svfModeOf
    split
    all_goals first
      | omega
      | rfl

theorem shapeOf_eq (c : Params) (code : U16) :
    shapeOf c code = if code.toNat < c.numShapes then some code.toNat else none := rfl

theorem renderSize_of_legal {size : U16} (h : 1 ≤ size.toNat) (h' : size.toNat ≤ 256) :
    renderSize size = some size.toNat := if_pos ⟨h, h'⟩

theorem address8_of_lt {a : U16} (h : a.toNat < 768) : address8 a = .ok a.toNat := by
  simp [address8, mapped, h]

theorem address8_of_ge {a : U16} (h : 768 ≤ a.toNat) : address8 a = .error .badAddress := by
  simp [address8, mapped, show ¬ a.toNat < 768 by omega]

theorem address16_of_even {a : U16} (h : a.toNat + 1 < 768) (he : a.toNat % 2 = 0) :
    address16 a = .ok a.toNat := by
  simp [address16, mapped, show a.toNat < 768 by omega, h, he]

theorem address16_of_odd {a : U16} (h : a.toNat + 1 < 768) (ho : a.toNat % 2 = 1) :
    address16 a = .error .misaligned := by
  simp [address16, mapped, show a.toNat < 768 by omega, h, ho]

theorem address16_of_ge {a : U16} (h : 768 ≤ a.toNat + 1) : address16 a = .error .badAddress := by
  simp [address16, mapped, show ¬ a.toNat + 1 < 768 by omega]

theorem readChannel_eq_none (c : Params) (p : Processor) (sel : BitVec 4) :
    readChannel c p sel = none ↔ 9 ≤ sel.toNat := by
  constructor
  · intro h
    unfold readChannel at h
    split at h
    all_goals cases h
    by_contra hlt
    generalize sel.toNat = n at *
    have hn : n < 9 := by omega
    interval_cases n <;> simp_all
  · intro h
    unfold readChannel
    split
    all_goals first
      | omega
      | rfl

theorem readOscillator_eq_none (o : Oscillator) (sel : BitVec 4) :
    readOscillator o sel = none ↔ 9 ≤ sel.toNat := by
  constructor
  · intro h
    unfold readOscillator at h
    split at h
    all_goals cases h
    by_contra hlt
    generalize sel.toNat = n at *
    have hn : n < 9 := by omega
    interval_cases n <;> simp_all
  · intro h
    unfold readOscillator
    split
    all_goals first
      | omega
      | rfl

theorem readSystem_eq_none (y : System) (sel : BitVec 4) : readSystem y sel = none ↔ 6 ≤ sel.toNat := by
  constructor
  · intro h
    unfold readSystem at h
    split at h
    all_goals cases h
    by_contra hlt
    generalize sel.toNat = n at *
    have hn : n < 6 := by omega
    interval_cases n <;> simp_all
  · intro h
    unfold readSystem
    split
    all_goals first
      | omega
      | rfl

/-! The meanings' checks. -/

/-- One check fails: the cause is its own, and it failed. -/
theorem firstFailing_one {b : Bool} {cause cause' : Cause} (h : firstFailing [(b, cause)] = some cause') :
    b = false ∧ cause' = cause := by
  cases b <;> simp_all [firstFailing]

theorem subBelow_fails {sub : BitVec 4} {n : Nat} {cause : Cause}
    (h : firstFailing [subBelow sub n] = some cause) : n ≤ sub.toNat ∧ cause = .badIndex := by
  have := firstFailing_one h
  simpa using this

theorem codeBelow_fails {code : U16} {n : Nat} {cause : Cause}
    (h : firstFailing [codeBelow code n] = some cause) : n ≤ code.toNat ∧ cause = .badEnum := by
  have := firstFailing_one h
  simpa using this

theorem address8_of_fault {a : U16} {cause : Cause}
    (h : firstFailing [addressMapped a.toNat] = some cause) : address8 a = .error cause := by
  have := firstFailing_one h
  simp only [decide_eq_false_iff_not] at this
  rw [this.2]
  exact address8_of_ge (by omega)

theorem address16_of_fault {a : U16} {cause : Cause}
    (h : firstFailing [addressMapped a.toNat, addressMapped (a.toNat + 1), addressEven a.toNat] = some cause) :
    address16 a = .error cause := by
  simp only [firstFailing, addressMapped, addressEven, decide_eq_true_eq] at h
  split at h
  · split at h
    · split at h
      · cases h
      · cases h
        exact address16_of_odd (by omega) (by omega)
    · cases h
      exact address16_of_ge (by omega)
  · cases h
    exact address16_of_ge (by omega)

/-- A command whose operands are illegal takes the fault they are illegal for, when the block is not
halted: the meanings make the checks of `Instr.operandFault`, in its order, before anything else. -/
theorem exec_of_operandFault {i : Instr} {s : State} {cause : Cause} (hs : s.halted = false)
    (h : i.operandFault cfg = some cause) : exec i s = .next (raiseFault cause (encode i) s) := by
  cases i <;> simp only [Instr.operandFault, reduceCtorEq] at h
  case pSetFunction ch code =>
    obtain ⟨hc, rfl⟩ := codeBelow_fails h
    simp [exec, execPSetFunction, pSetFunction, whenRunning, hs, functionOf_eq_none.mpr hc]
  case pSetParameter ch index value =>
    obtain ⟨hc, rfl⟩ := subBelow_fails h
    simp [exec, execPSetParameter, pSetParameter, whenRunning, hs, paramIndex_of_ge hc]
  case pSetControlMode ch code =>
    obtain ⟨hc, rfl⟩ := codeBelow_fails h
    simp [exec, execPSetControlMode, pSetControlMode, whenRunning, hs, controlModeOf_eq_none.mpr hc]
  case pRead ch sel =>
    obtain ⟨hc, rfl⟩ := subBelow_fails h
    simp [exec, execPRead, pRead, whenRunning, hs, (readChannel_eq_none cfg (s.proc ch) sel).mpr hc]
  case oSetShape code =>
    obtain ⟨hc, rfl⟩ := codeBelow_fails h
    simp [exec, execOSetShape, oSetShape, whenRunning, hs, shapeOf, show ¬ code.toNat < cfg.numShapes by omega]
  case oRender size =>
    obtain ⟨hc, rfl⟩ := firstFailing_one h
    simp only [decide_eq_false_iff_not] at hc
    simp [exec, execORender, oRender, whenRunning, hs, renderSize, hc]
  case oRead sel =>
    obtain ⟨hc, rfl⟩ := subBelow_fails h
    simp [exec, execORead, oRead, whenRunning, hs, (readOscillator_eq_none s.osc sel).mpr hc]
  case eInit k =>
    obtain ⟨hc, rfl⟩ := subBelow_fails h
    simp [exec, execEInit, eInit, onExc, whenRunning, hs, excIndex_of_ge hc]
  case eSetDelay k delay =>
    obtain ⟨hc, rfl⟩ := subBelow_fails h
    simp [exec, execESetDelay, eSetDelay, onExc, whenRunning, hs, excIndex_of_ge hc]
  case eSetDecay k decay =>
    obtain ⟨hc, rfl⟩ := subBelow_fails h
    simp [exec, execESetDecay, eSetDecay, onExc, whenRunning, hs, excIndex_of_ge hc]
  case eTrigger k level =>
    obtain ⟨hc, rfl⟩ := subBelow_fails h
    simp [exec, execETrigger, eTrigger, onExc, whenRunning, hs, excIndex_of_ge hc]
  case eProcess k =>
    obtain ⟨hc, rfl⟩ := subBelow_fails h
    simp [exec, execEProcess, eProcess, onExc, whenRunning, hs, excIndex_of_ge hc]
  case eDone k =>
    obtain ⟨hc, rfl⟩ := subBelow_fails h
    simp [exec, execEDone, eDone, onExc, whenRunning, hs, excIndex_of_ge hc]
  case sInit k =>
    obtain ⟨hc, rfl⟩ := subBelow_fails h
    simp [exec, execSInit, sInit, onSvf, whenRunning, hs, svfIndex_of_ge hc]
  case sSetFrequency k frequency =>
    obtain ⟨hc, rfl⟩ := subBelow_fails h
    simp [exec, execSSetFrequency, sSetFrequency, onSvf, whenRunning, hs, svfIndex_of_ge hc]
  case sSetResonance k resonance =>
    obtain ⟨hc, rfl⟩ := subBelow_fails h
    simp [exec, execSSetResonance, sSetResonance, onSvf, whenRunning, hs, svfIndex_of_ge hc]
  case sSetPunch k punch =>
    obtain ⟨hc, rfl⟩ := subBelow_fails h
    simp [exec, execSSetPunch, sSetPunch, onSvf, whenRunning, hs, svfIndex_of_ge hc]
  case sSetMode k code =>
    by_cases hk : k.toNat < 3
    · have hk' : svfIndex k = some ⟨k.toNat, hk⟩ := svfIndex_of_lt rfl
      simp only [firstFailing, subBelow, decide_eq_true hk, if_true] at h
      obtain ⟨hc, rfl⟩ := codeBelow_fails h
      simp [exec, execSSetMode, sSetMode, onSvf, whenRunning, hs, hk', svfModeOf_eq_none.mpr hc]
    · simp only [firstFailing, subBelow, decide_eq_false hk] at h
      cases h
      simp [exec, execSSetMode, sSetMode, onSvf, whenRunning, hs, svfIndex_of_ge (sub := k) (by omega)]
  case sProcess k x =>
    obtain ⟨hc, rfl⟩ := subBelow_fails h
    simp [exec, execSProcess, sProcess, onSvf, whenRunning, hs, svfIndex_of_ge hc]
  case dacCode ch value =>
    obtain ⟨hc, rfl⟩ := subBelow_fails h
    simp [exec, execDacCode, dacCode, whenRunning, hs, dacChannel_of_ge hc]
  case dacSetOffset ch offset =>
    obtain ⟨hc, rfl⟩ := subBelow_fails h
    simp [exec, execDacSetOffset, dacSetOffset, whenRunning, hs, dacChannel_of_ge hc]
  case mRead8 a =>
    simp [exec, execMRead8, mRead8, whenRunning, hs, address8_of_fault h]
  case mWrite8 a data =>
    simp [exec, execMWrite8, mWrite8, whenRunning, hs, address8_of_fault h]
  case mRead16 a =>
    simp [exec, execMRead16, mRead16, whenRunning, hs, address16_of_fault h]
  case mWrite16 a data =>
    simp [exec, execMWrite16, mWrite16, whenRunning, hs, address16_of_fault h]
  case sysStatus sel =>
    obtain ⟨hc, rfl⟩ := subBelow_fails h
    simp [exec, execSysStatus, sysStatus, (readSystem_eq_none s.sys sel).mpr hc]

end Sys2Proof.Machine
end

