-- ==== Sys2Proof/Laws/Words.lean ====
section
/-! SUPPORT. Words and their six fields are the same thing (30_encoding.md rule R121). -/

namespace Sys2Proof

/-- Bit `j` of each field is the word's bit at the field's place. -/
theorem getLsbD_wordOf (f : Fields) (j : Nat) :
    (wordOf f).getLsbD j =
      if j < 16 then f.b.getLsbD j
      else if j < 32 then f.a.getLsbD (j - 16)
      else if j < 48 then f.rsv.getLsbD (j - 32)
      else if j < 52 then f.sub.getLsbD (j - 48)
      else if j < 56 then f.unit.getLsbD (j - 52)
      else f.op.getLsbD (j - 56) := by
  simp only [wordOf, BitVec.getLsbD_append, Nat.sub_sub]
  repeat' split
  all_goals first
    | rfl
    | omega

/-- The fields of a word made of fields. -/
@[simp] theorem fieldsOf_wordOf (f : Fields) : fieldsOf (wordOf f) = f := by
  have h := getLsbD_wordOf f
  have op : (wordOf f).extractLsb' 56 8 = f.op := by
    apply BitVec.eq_of_getLsbD_eq
    intro i hi
    simp [h, hi, show ¬ 56 + i < 16 by omega, show ¬ 56 + i < 32 by omega, show ¬ 56 + i < 48 by omega,
      show ¬ 56 + i < 52 by omega]
  have unit : (wordOf f).extractLsb' 52 4 = f.unit := by
    apply BitVec.eq_of_getLsbD_eq
    intro i hi
    simp [h, hi, show ¬ 52 + i < 16 by omega, show ¬ 52 + i < 32 by omega, show ¬ 52 + i < 48 by omega,
      show 52 + i < 56 by omega]
  have sub : (wordOf f).extractLsb' 48 4 = f.sub := by
    apply BitVec.eq_of_getLsbD_eq
    intro i hi
    simp [h, hi, show ¬ 48 + i < 16 by omega, show ¬ 48 + i < 32 by omega, show 48 + i < 52 by omega]
  have rsv : (wordOf f).extractLsb' 32 16 = f.rsv := by
    apply BitVec.eq_of_getLsbD_eq
    intro i hi
    simp [h, hi, show ¬ 32 + i < 16 by omega, show 32 + i < 48 by omega]
  have a : (wordOf f).extractLsb' 16 16 = f.a := by
    apply BitVec.eq_of_getLsbD_eq
    intro i hi
    simp [h, hi, show 16 + i < 32 by omega]
  have b : (wordOf f).extractLsb' 0 16 = f.b := by
    apply BitVec.eq_of_getLsbD_eq
    intro i hi
    simp [h, hi]
  simp only [fieldsOf, op, unit, sub, rsv, a, b]

/-- The word made of a word's fields. -/
@[simp] theorem wordOf_fieldsOf (w : Command) : wordOf (fieldsOf w) = w := by
  apply BitVec.eq_of_getLsbD_eq
  intro j hj
  rw [getLsbD_wordOf]
  simp only [fieldsOf, BitVec.getLsbD_extractLsb']
  split
  · simp [*]
  · split
    · simp [show j - 16 < 16 by omega, show 16 + (j - 16) = j by omega]
    · split
      · simp [show j - 32 < 16 by omega, show 32 + (j - 32) = j by omega]
      · split
        · simp [show j - 48 < 4 by omega, show 48 + (j - 48) = j by omega]
        · split
          · simp [show j - 52 < 4 by omega, show 52 + (j - 52) = j by omega]
          · simp [show j - 56 < 8 by omega, show 56 + (j - 56) = j by omega]

end Sys2Proof
end

