-- ==== Sys2Proof/Laws/PerInstr.lean ====
section
/-! SUPPORT. The family FieldsDecode: the decoder reads an instruction back from its fields, one lemma per
constructor. -/

namespace Sys2Proof.Laws.FieldsDecode

open Sys2Proof

/-- The fields the encoder gives an instruction decode to it. -/
def Statement (i : Instr) : Prop := decodeFields (fieldsOfInstr i) = .ok i

/-- The row of an assigned opcode accepts fields whose unit is allowed and whose reserved bits are 0. -/
theorem decodeFields_row (f : Fields) (r : OpRow) (hr : opRow f.op = some r)
    (hu : r.unit.allows f.unit = true) (hz : r.reservedNonzero f = false) :
    decodeFields f = .ok (r.build f) := by
  simp [decodeFields, hr, hu, hz]

/-- The low three bits of a control byte's field are the control byte. -/
theorem extract_control (c : BitVec 3) : (c.zeroExtend 16).extractLsb' 0 3 = c := by
  apply BitVec.eq_of_getLsbD_eq
  intro i hi
  simp [hi, show i < 16 by omega]

/-- A control byte's field has no reserved bit. -/
theorem control_reserved (c : BitVec 3) : c.zeroExtend 16 &&& 0xFFF8#16 = 0 := by
  revert c
  decide

/-- The low byte of a data byte's field is the data byte. -/
theorem extract_data (d : U8) : (d.zeroExtend 16).extractLsb' 0 8 = d := by
  apply BitVec.eq_of_getLsbD_eq
  intro i hi
  simp [hi, show i < 16 by omega]

/-- A data byte's field has no reserved bit. -/
theorem data_reserved (d : U8) : d.zeroExtend 16 &&& 0xFF00#16 = 0 := by
  revert d
  decide

/-- A level's two halves make the level. -/
theorem join_level (l : S32) : l.extractLsb' 16 16 ++ l.extractLsb' 0 16 = l := by
  apply BitVec.eq_of_getLsbD_eq
  intro i hi
  rw [BitVec.getLsbD_append]
  by_cases h : i < 16
  · simp [h]
  · simp [h, show i - 16 < 16 by omega, show 16 + (i - 16) = i by omega]

theorem pInit (ch : Chan) : Statement (.pInit ch) := by
  refine (decodeFields_row _ _ rfl (by cases ch <;> rfl) ?_).trans ?_
  · simp [OpRow.reservedNonzero, fieldsOfInstr]
  · cases ch <;> rfl

theorem pSetFunction (ch : Chan) (code : U16) : Statement (.pSetFunction ch code) := by
  refine (decodeFields_row _ _ rfl (by cases ch <;> rfl) ?_).trans ?_
  · simp [OpRow.reservedNonzero, fieldsOfInstr]
  · cases ch <;> rfl

theorem pSetParameter (ch : Chan) (index : BitVec 4) (value : U16) : Statement (.pSetParameter ch index value) := by
  refine (decodeFields_row _ _ rfl (by cases ch <;> rfl) ?_).trans ?_
  · simp [OpRow.reservedNonzero, fieldsOfInstr]
  · cases ch <;> rfl

theorem pSetControlMode (ch : Chan) (code : U16) : Statement (.pSetControlMode ch code) := by
  refine (decodeFields_row _ _ rfl (by cases ch <;> rfl) ?_).trans ?_
  · simp [OpRow.reservedNonzero, fieldsOfInstr]
  · cases ch <;> rfl

theorem pProcess (ch : Chan) (ctrl : BitVec 3) : Statement (.pProcess ch ctrl) := by
  refine (decodeFields_row _ _ rfl (by cases ch <;> rfl) ?_).trans ?_
  · simp [OpRow.reservedNonzero, fieldsOfInstr, control_reserved]
  · cases ch <;> simp [fieldsOfInstr, extract_control, unitOfChan, chanOfUnit]

theorem pBuffer (ch : Chan) : Statement (.pBuffer ch) := by
  refine (decodeFields_row _ _ rfl (by cases ch <;> rfl) ?_).trans ?_
  · simp [OpRow.reservedNonzero, fieldsOfInstr]
  · cases ch <;> rfl

theorem pRead (ch : Chan) (sel : BitVec 4) : Statement (.pRead ch sel) := by
  refine (decodeFields_row _ _ rfl (by cases ch <;> rfl) ?_).trans ?_
  · simp [OpRow.reservedNonzero, fieldsOfInstr]
  · cases ch <;> rfl

theorem oInit : Statement .oInit := by
  refine (decodeFields_row _ _ rfl rfl ?_).trans rfl
  simp [OpRow.reservedNonzero, fieldsOfInstr]

theorem oSetShape (code : U16) : Statement (.oSetShape code) := by
  refine (decodeFields_row _ _ rfl rfl ?_).trans rfl
  simp [OpRow.reservedNonzero, fieldsOfInstr]

theorem oSetParameters (p1 : S16) (p2 : S16) : Statement (.oSetParameters p1 p2) := by
  refine (decodeFields_row _ _ rfl rfl ?_).trans rfl
  simp [OpRow.reservedNonzero, fieldsOfInstr]

theorem oSetPitch (pitch : S16) : Statement (.oSetPitch pitch) := by
  refine (decodeFields_row _ _ rfl rfl ?_).trans rfl
  simp [OpRow.reservedNonzero, fieldsOfInstr]

theorem oStrike : Statement .oStrike := by
  refine (decodeFields_row _ _ rfl rfl ?_).trans rfl
  simp [OpRow.reservedNonzero, fieldsOfInstr]

theorem oRender (size : U16) : Statement (.oRender size) := by
  refine (decodeFields_row _ _ rfl rfl ?_).trans rfl
  simp [OpRow.reservedNonzero, fieldsOfInstr]

theorem oRead (sel : BitVec 4) : Statement (.oRead sel) := by
  refine (decodeFields_row _ _ rfl rfl ?_).trans rfl
  simp [OpRow.reservedNonzero, fieldsOfInstr]

theorem eInit (k : BitVec 4) : Statement (.eInit k) := by
  refine (decodeFields_row _ _ rfl rfl ?_).trans rfl
  simp [OpRow.reservedNonzero, fieldsOfInstr]

theorem eSetDelay (k : BitVec 4) (delay : U16) : Statement (.eSetDelay k delay) := by
  refine (decodeFields_row _ _ rfl rfl ?_).trans rfl
  simp [OpRow.reservedNonzero, fieldsOfInstr]

theorem eSetDecay (k : BitVec 4) (decay : U16) : Statement (.eSetDecay k decay) := by
  refine (decodeFields_row _ _ rfl rfl ?_).trans rfl
  simp [OpRow.reservedNonzero, fieldsOfInstr]

theorem eTrigger (k : BitVec 4) (level : S32) : Statement (.eTrigger k level) := by
  refine (decodeFields_row _ _ rfl rfl ?_).trans ?_
  · simp [OpRow.reservedNonzero, fieldsOfInstr]
  · simp only [fieldsOfInstr, join_level]

theorem eProcess (k : BitVec 4) : Statement (.eProcess k) := by
  refine (decodeFields_row _ _ rfl rfl ?_).trans rfl
  simp [OpRow.reservedNonzero, fieldsOfInstr]

theorem eDone (k : BitVec 4) : Statement (.eDone k) := by
  refine (decodeFields_row _ _ rfl rfl ?_).trans rfl
  simp [OpRow.reservedNonzero, fieldsOfInstr]

theorem sInit (k : BitVec 4) : Statement (.sInit k) := by
  refine (decodeFields_row _ _ rfl rfl ?_).trans rfl
  simp [OpRow.reservedNonzero, fieldsOfInstr]

theorem sSetFrequency (k : BitVec 4) (frequency : S16) : Statement (.sSetFrequency k frequency) := by
  refine (decodeFields_row _ _ rfl rfl ?_).trans rfl
  simp [OpRow.reservedNonzero, fieldsOfInstr]

theorem sSetResonance (k : BitVec 4) (resonance : S16) : Statement (.sSetResonance k resonance) := by
  refine (decodeFields_row _ _ rfl rfl ?_).trans rfl
  simp [OpRow.reservedNonzero, fieldsOfInstr]

theorem sSetPunch (k : BitVec 4) (punch : U16) : Statement (.sSetPunch k punch) := by
  refine (decodeFields_row _ _ rfl rfl ?_).trans rfl
  simp [OpRow.reservedNonzero, fieldsOfInstr]

theorem sSetMode (k : BitVec 4) (code : U16) : Statement (.sSetMode k code) := by
  refine (decodeFields_row _ _ rfl rfl ?_).trans rfl
  simp [OpRow.reservedNonzero, fieldsOfInstr]

theorem sProcess (k : BitVec 4) (x : S16) : Statement (.sProcess k x) := by
  refine (decodeFields_row _ _ rfl rfl ?_).trans rfl
  simp [OpRow.reservedNonzero, fieldsOfInstr]

theorem dacCode (ch : BitVec 4) (value : S16) : Statement (.dacCode ch value) := by
  refine (decodeFields_row _ _ rfl rfl ?_).trans rfl
  simp [OpRow.reservedNonzero, fieldsOfInstr]

theorem dacSetOffset (ch : BitVec 4) (offset : S16) : Statement (.dacSetOffset ch offset) := by
  refine (decodeFields_row _ _ rfl rfl ?_).trans rfl
  simp [OpRow.reservedNonzero, fieldsOfInstr]

theorem mRead8 (a : U16) : Statement (.mRead8 a) := by
  refine (decodeFields_row _ _ rfl rfl ?_).trans rfl
  simp [OpRow.reservedNonzero, fieldsOfInstr]

theorem mWrite8 (a : U16) (data : U8) : Statement (.mWrite8 a data) := by
  refine (decodeFields_row _ _ rfl rfl ?_).trans ?_
  · simp [OpRow.reservedNonzero, fieldsOfInstr, data_reserved]
  · simp [fieldsOfInstr, extract_data]

theorem mRead16 (a : U16) : Statement (.mRead16 a) := by
  refine (decodeFields_row _ _ rfl rfl ?_).trans rfl
  simp [OpRow.reservedNonzero, fieldsOfInstr]

theorem mWrite16 (a : U16) (data : U16) : Statement (.mWrite16 a data) := by
  refine (decodeFields_row _ _ rfl rfl ?_).trans rfl
  simp [OpRow.reservedNonzero, fieldsOfInstr]

theorem sysStatus (sel : BitVec 4) : Statement (.sysStatus sel) := by
  refine (decodeFields_row _ _ rfl rfl ?_).trans rfl
  simp [OpRow.reservedNonzero, fieldsOfInstr]

theorem sysReset : Statement .sysReset := by
  refine (decodeFields_row _ _ rfl rfl ?_).trans rfl
  simp [OpRow.reservedNonzero, fieldsOfInstr]

end Sys2Proof.Laws.FieldsDecode
end

