-- ==== Sys2Proof/Machine/Assembly.lean ====
section
/-! DEFINITION. The assembly text of a command (30_encoding.md rule R139). It is notation: no step reads it.
Enumeration operands are written by number, one of the two spellings the rule allows; a read select is
written by its name. -/

namespace Sys2Proof.Machine

/-- The unit operand of a `p.*` command. -/
def Chan.text (ch : Chan) : String :=
  match ch with
  | .ch0 => "ch0"
  | .ch1 => "ch1"

/-- An unsigned operand in decimal. -/
def unsignedText {n : Nat} (v : BitVec n) : String := Nat.repr v.toNat

/-- A signed operand in decimal. -/
def signedText {n : Nat} (v : BitVec n) : String :=
  if v.msb then "-" ++ Nat.repr (-v.toInt).toNat else Nat.repr v.toNat

/-- A mnemonic and its operands, separated by commas. -/
def commandText (mnemonic : String) (operands : List String) : String :=
  match operands with
  | [] => mnemonic
  | first :: rest => rest.foldl (fun line operand => line ++ ", " ++ operand) (mnemonic ++ " " ++ first)

/-- The names of a read select (rule R136, in upper case), by code. -/
def selectName (names : List String) (sel : BitVec 4) : String := names.getD sel.toNat (unsignedText sel)

/-- The read selects of `p.read`. -/
def channelSelects : List String :=
  ["FUNCTION", "CONTROL_MODE", "PARAM0", "PARAM1", "PARAM2", "PARAM3", "IN_READABLE", "OUT_READABLE",
    "LFO_SYNC"]

/-- The read selects of `o.read`. -/
def oscillatorSelects : List String :=
  ["SHAPE", "PITCH", "PARAM0", "PARAM1", "PHASE", "PHASE_INC", "STRIKE", "FIRST_RENDER", "PREV_SHAPE"]

/-- The read selects of `sys.status`. -/
def systemSelects : List String :=
  ["STATUS", "FAULT_CMD_LO", "FAULT_CMD_HI", "RNG", "DAC_OFFSET0", "DAC_OFFSET1"]

/-- The assembly text of a command. -/
def assembly (i : Instr) : String :=
  let exc (k : BitVec 4) := "exc" ++ unsignedText k
  let svf (k : BitVec 4) := "svf" ++ unsignedText k
  match i with
  | .pInit ch => commandText "p.init" [Chan.text ch]
  | .pSetFunction ch code => commandText "p.set_function" [Chan.text ch, unsignedText code]
  | .pSetParameter ch index value =>
    commandText "p.set_parameter" [Chan.text ch, unsignedText index, unsignedText value]
  | .pSetControlMode ch code => commandText "p.set_control_mode" [Chan.text ch, unsignedText code]
  | .pProcess ch ctrl => commandText "p.process" [Chan.text ch, unsignedText ctrl]
  | .pBuffer ch => commandText "p.buffer" [Chan.text ch]
  | .pRead ch sel => commandText "p.read" [Chan.text ch, selectName channelSelects sel]
  | .oInit => commandText "o.init" []
  | .oSetShape code => commandText "o.set_shape" [unsignedText code]
  | .oSetParameters p1 p2 => commandText "o.set_parameters" [signedText p1, signedText p2]
  | .oSetPitch pitch => commandText "o.set_pitch" [signedText pitch]
  | .oStrike => commandText "o.strike" []
  | .oRender size => commandText "o.render" [unsignedText size]
  | .oRead sel => commandText "o.read" [selectName oscillatorSelects sel]
  | .eInit k => commandText "e.init" [exc k]
  | .eSetDelay k delay => commandText "e.set_delay" [exc k, unsignedText delay]
  | .eSetDecay k decay => commandText "e.set_decay" [exc k, unsignedText decay]
  | .eTrigger k level => commandText "e.trigger" [exc k, signedText level]
  | .eProcess k => commandText "e.process" [exc k]
  | .eDone k => commandText "e.done" [exc k]
  | .sInit k => commandText "s.init" [svf k]
  | .sSetFrequency k frequency => commandText "s.set_frequency" [svf k, signedText frequency]
  | .sSetResonance k resonance => commandText "s.set_resonance" [svf k, signedText resonance]
  | .sSetPunch k punch => commandText "s.set_punch" [svf k, unsignedText punch]
  | .sSetMode k code => commandText "s.set_mode" [svf k, unsignedText code]
  | .sProcess k x => commandText "s.process" [svf k, signedText x]
  | .dacCode ch value => commandText "dac.code" [unsignedText ch, signedText value]
  | .dacSetOffset ch offset => commandText "dac.set_offset" [unsignedText ch, signedText offset]
  | .mRead8 a => commandText "m.read8" [unsignedText a]
  | .mWrite8 a data => commandText "m.write8" [unsignedText a, unsignedText data]
  | .mRead16 a => commandText "m.read16" [unsignedText a]
  | .mWrite16 a data => commandText "m.write16" [unsignedText a, unsignedText data]
  | .sysStatus sel => commandText "sys.status" [selectName systemSelects sel]
  | .sysReset => commandText "sys.reset" []

end Sys2Proof.Machine
end

