-- ==== Sys2Proof/Machine/HostForms.lean ====
section
/-! DEFINITION. The host's own forms of commands: the two-channel gate byte and the pseudo-instructions
(30_encoding.md rules R137 and R140). They are no part of the block: each comes to commands the host
issues. -/

namespace Sys2Proof.Machine

/-- The control byte of a channel in the two-channel gate byte: `(gate_byte >> (4 × c)) & 0x7`
(rule R137). -/
def gateControl (gate : U8) (ch : Chan) : BitVec 3 :=
  match ch with
  | .ch0 => gate.extractLsb' 0 3
  | .ch1 => gate.extractLsb' 4 3

/-- A pseudo-instruction (rule R140). -/
inductive Pseudo where
  /-- p.set_parameters ch, a, b, c, d -/
  | pSetParameters (ch : Chan) (a b c d : U16)
  /-- e.fire excK, d, k, level -/
  | eFire (exc : BitVec 4) (delay decay : U16) (level : S32)
  /-- tick c0, c1 -/
  | tick (c0 c1 : BitVec 3)
  /-- m.fill8 a, n, b -/
  | mFill8 (a : U16) (n : Nat) (b : U8)
  /-- nop -/
  | nop
deriving DecidableEq, Repr

/-- The commands a pseudo-instruction stands for, in order. An address of `m.fill8` past 0xFFFF is taken
mod 2^16, the width of the operand (DESIGN CHOICE, notes/assumptions/25.md). -/
def Pseudo.expand (p : Pseudo) : List Instr :=
  match p with
  | .pSetParameters ch a b c d =>
    [.pSetParameter ch 0 a, .pSetParameter ch 1 b, .pSetParameter ch 2 c, .pSetParameter ch 3 d]
  | .eFire exc delay decay level => [.eSetDelay exc delay, .eSetDecay exc decay, .eTrigger exc level]
  | .tick c0 c1 => [.pProcess .ch0 c0, .pProcess .ch1 c1]
  | .mFill8 a n b => (List.range n).map fun i => .mWrite8 (a + BitVec.ofNat 16 i) b
  | .nop => [.sysStatus 0]

/-- The state with commands issued after those already issued. -/
def issueLast (s : State) (commands : List Instr) : State :=
  { s with pending := s.pending ++ commands.map encode }

end Sys2Proof.Machine
end

