-- ==== Sys2Proof/Tests/Slice0.lean ====
section
/-! SUPPORT. Tests and witnesses. Expected results are those of 95_test_vectors.md (named by their labels
there) or worked by hand from the rule named; where a label stands alone it is of that file. The test
configuration `tc` holds the values of that file's section 2 for what the vectors use. -/

namespace Sys2Proof.Tests

open Sys2Proof.Machine Sys2Proof.Config

/-- TC-SHAPE's renderer 1 on `n` samples: the phase after them and the samples, last first. -/
def tcSaw (inc : U32) (sync : List U8) (phase : U32) (ys : List S16) : U32 × List S16 :=
  match sync with
  | [] => (phase, ys)
  | b :: rest =>
    let phase := (if b = 0 then phase else 0) + inc
    tcSaw inc rest phase (phase.extractLsb' 0 16 :: ys)

/-- TC-SVF, TC-INC, TC-PITCH, TC-LCG, TC-LFO, TC-PS, TC-PR, TC-BB, TC-SHAPE and TC-RING. -/
def tc : Params :=
  { bb := { gravity := fun k => k.toNat, launchVelocity := fun _ => 0 }
    renderShape := fun s i =>
      let (phase, ys) := if s = 1 then tcSaw i.phaseInc i.sync i.phase [] else (i.phase, [])
      .result ⟨phase, i.union, i.scratch, i.rng, fun j => ys.reverse.getD j 0⟩ }

/-- The state after reset under `tc`. -/
def t0 : State := State.resetWith tc

/-- `t0` with a function, parameters and ring indices given to channel 0. -/
def withChannel (f : FunctionCode) (param : Quad U16) (inR inW outR outW : Nat) : State :=
  t0.withProc .ch0
    { channelInit tc with
      function := f, param := param
      inRing := ⟨List.replicate 8 0, inR, inW⟩, outRing := ⟨List.replicate 8 0, outR, outW⟩ }

/-- `t0` with Excitation 0 and Svf 0 given. -/
def withUnits (e : Excitation) (v : Svf) : State := (t0.withExc 0 e).withSvf 0 v

/-- `t0` halted by cause 5 on the word of P2, step 7. -/
def tHalted : State := { t0 with sys := { t0.sys with status := 0x51, faultCmd := 0x11000000000C0000 } }

/-- The next state of an outcome, or `t0`. -/
def nextOf (o : Host.Outcome State Fault Refusal) : State :=
  match o with
  | .next t => t
  | .fault _ => t0
  | .refused _ => t0

/-! WellFormed: for each check a command it refuses, and legal commands at the bounds. -/

theorem test_wf_function_code : (Instr.pSetFunction .ch0 12).operandFault tc = some .badEnum := by decide
theorem test_wf_param_index : (Instr.pSetParameter .ch0 4 0).operandFault tc = some .badIndex := by decide
theorem test_wf_control_mode : (Instr.pSetControlMode .ch0 2).operandFault tc = some .badEnum := by decide
theorem test_wf_p_read_select : (Instr.pRead .ch0 9).operandFault tc = some .badIndex := by decide
theorem test_wf_shape_code : (Instr.oSetShape 2).operandFault tc = some .badEnum := by decide
theorem test_wf_render_size : (Instr.oRender 0).operandFault tc = some .badSize ∧
    (Instr.oRender 257).operandFault tc = some .badSize := by decide
theorem test_wf_o_read_select : (Instr.oRead 9).operandFault tc = some .badIndex := by decide
theorem test_wf_excitation : ([.eInit 4, .eSetDelay 4 0, .eSetDecay 4 0, .eTrigger 4 0, .eProcess 4,
    .eDone 4] : List Instr).all (fun i => i.operandFault tc == some .badIndex) := by decide
theorem test_wf_svf : ([.sInit 3, .sSetFrequency 3 0, .sSetResonance 3 0, .sSetPunch 3 0, .sSetMode 3 9,
    .sProcess 3 0] : List Instr).all (fun i => i.operandFault tc == some .badIndex) := by decide
theorem test_wf_svf_mode : (Instr.sSetMode 2 4).operandFault tc = some .badEnum := by decide
theorem test_wf_dac_channel : (Instr.dacCode 2 0).operandFault tc = some .badIndex ∧
    (Instr.dacSetOffset 2 0).operandFault tc = some .badIndex := by decide
theorem test_wf_address8 : (Instr.mRead8 0x300).operandFault tc = some .badAddress ∧
    (Instr.mWrite8 0x300 0).operandFault tc = some .badAddress := by decide
theorem test_wf_address16 : ([.mRead16 0x300, .mRead16 0x301, .mRead16 0x2FF, .mWrite16 0x2FF 0] :
    List Instr).all (fun i => i.operandFault tc == some .badAddress) := by decide
theorem test_wf_misaligned : (Instr.mRead16 0x101).operandFault tc = some .misaligned ∧
    (Instr.mWrite16 0x2FD 0).operandFault tc = some .misaligned := by decide
theorem test_wf_status_select : (Instr.sysStatus 6).operandFault tc = some .badIndex := by decide
theorem test_wf_legal : ([.pInit .ch1, .pSetFunction .ch0 11, .pSetParameter .ch1 3 65535,
    .pSetControlMode .ch0 1, .pProcess .ch0 7, .pBuffer .ch0, .pRead .ch0 8, .oInit, .oSetShape 1,
    .oSetParameters 0 0, .oSetPitch 0x8000, .oStrike, .oRender 256, .oRead 8, .eInit 3, .sSetMode 2 3,
    .dacCode 1 0, .mRead8 0x2FF, .mRead16 0x2FE, .mWrite16 0 0, .sysStatus 5, .sysReset] :
    List Instr).all (fun i => i.wellFormed tc) := by decide

/-! Decoding: words written out from 30_encoding.md rule R123, one or more per command. -/

theorem test_decode_p :
    decode 0x1010000000000000 = .ok (.pInit .ch1) ∧
    decode 0x1110000000010000 = .ok (.pSetFunction .ch1 1) ∧
    decode 0x1203000080000000 = .ok (.pSetParameter .ch0 3 0x8000) ∧
    decode 0x1310000000010000 = .ok (.pSetControlMode .ch1 1) ∧
    decode 0x1400000000030000 = .ok (.pProcess .ch0 3) ∧
    decode 0x1410000000070000 = .ok (.pProcess .ch1 7) ∧
    decode 0x1500000000000000 = .ok (.pBuffer .ch0) ∧
    decode 0x1607000000000000 = .ok (.pRead .ch0 7) := by decide

theorem test_decode_o :
    decode 0x2020000000000000 = .ok .oInit ∧
    decode 0x2120000000010000 = .ok (.oSetShape 1) ∧
    decode 0x222000004000FFFF = .ok (.oSetParameters 16384 0xFFFF) ∧
    decode 0x2320000080000000 = .ok (.oSetPitch 0x8000) ∧
    decode 0x2420000000000000 = .ok .oStrike ∧
    decode 0x2520000001000000 = .ok (.oRender 256) ∧
    decode 0x2628000000000000 = .ok (.oRead 8) := by decide

theorem test_decode_e :
    decode 0x3023000000000000 = .ok (.eInit 3) ∧
    decode 0x3120000000020000 = .ok (.eSetDelay 0 2) ∧
    decode 0x3220000008000000 = .ok (.eSetDecay 0 2048) ∧
    decode 0x33220000FFFFFC18 = .ok (.eTrigger 2 0xFFFFFC18) ∧
    decode 0x3320000012345678 = .ok (.eTrigger 0 0x12345678) ∧
    decode 0x3421000000000000 = .ok (.eProcess 1) ∧
    decode 0x3520000000000000 = .ok (.eDone 0) := by decide

theorem test_decode_s :
    decode 0x4022000000000000 = .ok (.sInit 2) ∧
    decode 0x4121000020000000 = .ok (.sSetFrequency 1 8192) ∧
    decode 0x4221000040000000 = .ok (.sSetResonance 1 16384) ∧
    decode 0x43210000FFFF0000 = .ok (.sSetPunch 1 0xFFFF) ∧
    decode 0x4421000000010000 = .ok (.sSetMode 1 1) ∧
    decode 0x4521000027100000 = .ok (.sProcess 1 10000) := by decide

theorem test_decode_system :
    decode 0x5030000084D00000 = .ok (.dacCode 0 0x84D0) ∧
    decode 0x51310000FFF60000 = .ok (.dacSetOffset 1 0xFFF6) ∧
    decode 0x5830000001030000 = .ok (.mRead8 0x103) ∧
    decode 0x5930000000020001 = .ok (.mWrite8 2 1) ∧
    decode 0x5A30000001020000 = .ok (.mRead16 0x102) ∧
    decode 0x5B30000000000100 = .ok (.mWrite16 0 0x100) ∧
    decode 0x6032000000000000 = .ok (.sysStatus 2) ∧
    decode 0x6130000000000000 = .ok .sysReset := by decide

/-- The decode faults of section 3.9 that the word alone decides. -/
theorem test_decode_faults :
    decode 0x0000000000000000 = .error .illegalOpcode ∧ decode 0x1700000000000000 = .error .illegalOpcode ∧
    decode 0xFF00000000000000 = .error .illegalOpcode ∧ decode 0x1020000000000000 = .error .badUnit ∧
    decode 0x2000000000000000 = .error .badUnit ∧ decode 0x1150000000630000 = .error .badUnit ∧
    decode 0x1000000100000000 = .error .reservedNonzero ∧
    decode 0x1001000000000000 = .error .reservedNonzero ∧
    decode 0x1400000000080000 = .error .reservedNonzero ∧
    decode 0x5930000000000100 = .error .reservedNonzero := by decide

theorem test_decodeTableWord : decodeTableWord 64 0x1110000000010000 = some (.pSetFunction .ch1 1) ∧
    decodeTableWord 64 0 = none := by decide

/-! Steps. -/

theorem test_step_illegal : (nextOf (step (t0.withFetchWord 64 0x1700000000000000))).response = ⟨.fault, 1⟩ ∧
    (nextOf (step (t0.withFetchWord 64 0x1700000000000000))).sys.status = 0x11 := by decide
theorem test_step_runs : (nextOf (step (State.reset.withFetchWord 64 0x1607000000000000))).response.kind = .ok :=
  rfl
theorem test_step_halted : (nextOf (step (tHalted.withFetchWord 64 0x1600000000000000))).response = ⟨.halted, 0⟩ := by
  decide
/-- Y5: `sys.reset` with A = 1 while halted. -/
theorem test_step_halted_reset_word :
    (nextOf (step (tHalted.withFetchWord 64 0x6130000000010000))).response = ⟨.fault, 3⟩ ∧
    (nextOf (step (tHalted.withFetchWord 64 0x6130000000010000))).sys = tHalted.sys := by decide

/-- The gate byte 0x13 and the forms of rules R137 and R140. -/
theorem test_host_forms : gateControl 0x13 .ch0 = 3 ∧ gateControl 0x13 .ch1 = 1 ∧
    (issueLast t0 (Pseudo.eFire 0 2 2048 1000).expand).pending =
      [0x3120000000020000, 0x3220000008000000, 0x33200000000003E8] ∧
    (Pseudo.mFill8 2 2 1).expand = [.mWrite8 2 1, .mWrite8 3 1] := by decide

/-- The assembly text of a signed operand and of a read select the rule names (30_encoding.md rule R139). -/
theorem test_assembly : assembly (.eTrigger 2 (-1000)) = "e.trigger exc2, -1000" ∧
    assembly (.pRead .ch1 4) = "p.read ch1, PARAM2" := by decide

/-! Fixed-point helpers (F1 to F8). -/

theorem test_F1 : clip16 40000 = 32767 ∧ clip16 32768 = 32767 ∧ clip16 (-32769) = -32768 ∧
    clip16 (-32768) = -32768 := by decide
theorem test_F2 : constrain 70000 0 65535 = 65535 ∧ clampU16 (-5) = 0 := by decide
theorem test_F3 : interpolate88 [0, 0, 0, 100, 200] 0x0380 = 150 := by decide
theorem test_F4 : interpolate824 16 [0, 1000] 0x00800000 = 500 := by decide
theorem test_F5 : onePole 0 1000 1 1 = 500 ∧ onePole 7 9 0 4 = 7 ∧ onePole 7 9 16 4 = 9 := by decide
theorem test_F6 : nextRandom tc 0 = 0x3C6EF35F ∧ nextRandom tc 0x3C6EF35F = 0x47502932 ∧
    (drawnSample 0x3C6EF35F).toInt = 15470 ∧ (drawnSample 0x47502932).toInt = 18256 := by decide
theorem test_F7 : (-1 : Int) >>> (1 : Nat) = -1 ∧ (-3 : Int) >>> (1 : Nat) = -2 ∧
    (-2000 * 32768 : Int) >>> (16 : Nat) = -1000 := by decide
theorem test_F8 : phaseStep 0xC0000000 0x40000000 = 0 := by decide

/-! Excitation commands. -/

theorem test_eInit : (eInit 0 (withUnits ⟨5, 7, 6, 9, 3⟩ svfInit)).osc.exc.a0 = ⟨0, 4093, 0, 0, 0⟩ := by decide
theorem test_eSetDelay : (eSetDelay 0 0 (withUnits ⟨5, 4093, 6, 0, 1000⟩ svfInit)).osc.exc.a0 =
    ⟨0, 4093, 6, 0, 1000⟩ := by decide
theorem test_eSetDecay : (eSetDecay 0 4096 (withUnits ⟨5, 4093, 6, 0, 1000⟩ svfInit)).osc.exc.a0 =
    ⟨5, 4096, 6, 0, 1000⟩ := by decide
theorem test_eTrigger : (eTrigger 0 0xFFFFFC18 (withUnits ⟨2, 2048, 0, 500, 1000⟩ svfInit)).osc.exc.a0 =
    ⟨2, 2048, 3, 500, 0xFFFFFC18⟩ := by decide
/-- E4, the second process: 1000 × 4093 >> 12 = 999. -/
theorem test_eProcess_E4 : (eProcess tc 0 (withUnits ⟨0, 4093, 0, 1000, 1000⟩ svfInit)).response = ⟨.ok, 999⟩ := by
  decide
/-- E7, the process that injects: (62 × 2048 >> 12) + 200 = 231, negated by the level's sign. -/
theorem test_eProcess_E7 :
    (eProcess tc 0 (withUnits ⟨3, 2048, 1, 62, BitVec.ofInt 32 (-200)⟩ svfInit)).response =
      ⟨.ok, BitVec.ofInt 32 (-231)⟩ := by decide
/-- With no injection due the state decays, whatever the level (rules R195 and R200): 1000 × 8192 >> 12, and
100000 × 20000 >> 12. -/
theorem test_eProcess_grows :
    (eProcess tc 0 (withUnits ⟨0, 8192, 0, 1000, BitVec.ofInt 32 (2 ^ 31 - 1500)⟩ svfInit)).response = ⟨.ok, 2000⟩ ∧
    (eProcess tc 0 (withUnits ⟨0, 20000, 0, 100000, 2147283648⟩ svfInit)).response = ⟨.ok, 488281⟩ := by decide
/-- An injection whose sum reaches 2^31: the state holds it, and the value, which is no s32, is free. -/
theorem test_eProcess_above :
    let t := eProcess tc 0 (withUnits ⟨0, 20000, 1, 100000, 2147283648⟩ svfInit)
    (t.osc.exc.a0.state, t.freeCount) = (2147771929, 1) := by decide
theorem test_eDone : (eDone 0 (withUnits ⟨0, 4093, 1, 0, 5⟩ svfInit)).response = ⟨.ok, 0⟩ ∧
    (eDone 0 (withUnits ⟨0, 4093, 0, 7, 5⟩ svfInit)).response = ⟨.ok, 1⟩ := by decide
theorem test_e_badIndex : (eInit 4 t0).response = ⟨.fault, 4⟩ := by decide

/-! Svf commands. -/

theorem test_sInit : (sInit 0 (withUnits excInit ⟨1, 2, 3, 4, 5, .peak⟩)).osc.svf.a0 = ⟨0, 0, 0, 0, 0, .lp⟩ := by
  decide
theorem test_sSetFrequency : (sSetFrequency 0 0x8000 (withUnits excInit ⟨1, 2, 3, 4, 5, .hp⟩)).osc.svf.a0 =
    ⟨1, 2, 0x8000, 4, 5, .hp⟩ := by decide
theorem test_sSetResonance : (sSetResonance 0 9 (withUnits excInit ⟨1, 2, 3, 4, 5, .hp⟩)).osc.svf.a0 =
    ⟨1, 2, 3, 9, 5, .hp⟩ := by decide
theorem test_sSetPunch : (sSetPunch 0 9 (withUnits excInit ⟨1, 2, 3, 4, 5, .hp⟩)).osc.svf.a0 =
    ⟨1, 2, 3, 4, 9, .hp⟩ := by decide
theorem test_sSetMode : (sSetMode 0 3 (withUnits excInit ⟨1, 2, 3, 4, 5, .hp⟩)).osc.svf.a0 =
    ⟨1, 2, 3, 4, 5, .peak⟩ ∧ (sSetMode 0 4 t0).response = ⟨.fault, 5⟩ := by decide
/-- V1, the second call. -/
theorem test_sProcess_V1 :
    (sProcess tc 0 10000 (withUnits excInit ⟨625, 2500, 8192, 16384, 0, .bp⟩)).osc.svf.a0 =
      ⟨1757, 4531, 8192, 16384, 0, .bp⟩ ∧
    (sProcess tc 0 10000 (withUnits excInit ⟨625, 2500, 8192, 16384, 0, .bp⟩)).response = ⟨.ok, 4531⟩ := by decide
/-- V3 and V6: the peak tap's sign extension, and a high-pass that clips. -/
theorem test_sProcess_V3_V6 :
    (sProcess tc 0 10000 (withUnits excInit ⟨0, 0, 8192, 16384, 0, .peak⟩)).response =
      ⟨.ok, BitVec.ofInt 32 (-9375)⟩ ∧
    (sProcess tc 0 32767 (withUnits excInit ⟨BitVec.ofInt 32 (-32768), 0, 0, 0, 0, .hp⟩)).response =
      ⟨.ok, 32767⟩ := by decide

/-! Processors commands. -/

/-- `p.init` on channel 1 with flags and parameters set (rule R354). -/
theorem test_pInit :
    ((pInit tc .ch1 (t0.withProc .ch1 { channelInit tc with function := .lfo, param := ⟨1, 2, 3, 4⟩ })).p1.function,
      (pInit tc .ch1 (t0.withStatus 0xF000)).sys.status) = (FunctionCode.bassDrum, 0xF000) := by decide
/-- H6. -/
theorem test_pSetFunction_H6 :
    (pSetFunction tc .ch0 1 (withChannel .lfo ⟨0, 65535, 65535, 0⟩ 0 0 0 0)).p0.function = .highHat := by decide
/-- H7: the record is kept and `sync` set. -/
theorem test_pSetFunction_H7 :
    let p : Processor := { (withChannel .lfo ⟨0, 0, 0, 0⟩ 0 0 0 0).p0 with
      lfo := { lfoInit tc with phase := 77, count := 5, phaseInc := 9 } }
    let l := (pSetFunction tc .ch0 11 (t0.withProc .ch0 p)).p0.lfo
    (l.sync, l.phase, l.count, l.phaseInc) = (true, 77, 5, 9) := by decide
/-- H3 (the second write) and H2. -/
theorem test_pSetParameter_H3 :
    (pSetParameter tc .ch0 2 65001 (withChannel .snareDrum ⟨0, 65001, 0, 0⟩ 0 0 0 0)).p0.function = .highHat ∧
    (pSetParameter tc .ch0 2 65000 (withChannel .snareDrum ⟨0, 65000, 0, 0⟩ 0 0 0 0)).p0.function = .snareDrum := by
  decide
/-- H4 and H5. -/
theorem test_pSetParameter_H4 :
    (pSetParameter tc .ch0 1 64500 (withChannel .highHat ⟨0, 65001, 65001, 0⟩ 0 0 0 0)).p0.function = .highHat ∧
    (pSetParameter tc .ch0 2 64499 (withChannel .highHat ⟨0, 64500, 65001, 0⟩ 0 0 0 0)).p0.function = .snareDrum := by
  decide
/-- HALF on the Lfo: `k3` becomes 65535 and `k2` LFO_HALF_K2 (45_voices_generators.md rule R322). -/
theorem test_pSetControlMode :
    (pSetControlMode tc .ch0 1 (withChannel .lfo ⟨1, 2, 3, 4⟩ 0 0 0 0)).p0.lfo.k = ⟨1, 2, 32768, 65535⟩ := by
  decide
/-- RG2. -/
theorem test_pProcess_RG2 :
    let t := pProcess tc .ch0 0 (withChannel .lfo ⟨0, 0, 0, 0⟩ 0 0 0 0)
    (t.response, t.sys.status, t.p0.outRing.readable 8) = (⟨.ok, 0⟩, 0x400, 7) := by decide
/-- RG4: one sample queued. -/
theorem test_pProcess_RG4 :
    (pProcess tc .ch0 0 (withChannel .lfo ⟨0, 0, 0, 0⟩ 5 4 4 5)).sys.status = 0x200 := by decide
/-- P3, step 6 (and RG1): a block of a square Lfo; the input ring was empty. -/
theorem test_pBuffer_P3 :
    let p : Processor := { (withChannel .lfo ⟨0, 0, 0, 0⟩ 0 0 0 0).p0 with
      lfo := { lfoInit tc with phaseInc := 0x40000000, shape := .square, k := ⟨16384, 32768, 32768, 65535⟩ } }
    let t := pBuffer tc .ch0 (t0.withProc .ch0 p)
    (t.response, t.sys.status, t.p0.outRing) =
      (⟨.ok, 1⟩, 0x100, ⟨[32767, 0x8000, 0x8000, 32767, 0, 0, 0, 0], 0, 4⟩) := by decide
/-- RG1, the second call, and RG6. -/
theorem test_pBuffer_nothing :
    (pBuffer tc .ch0 (withChannel .lfo ⟨0, 0, 0, 0⟩ 4 0 0 4)).response = ⟨.ok, 0⟩ ∧
    (pBuffer tc .ch0 (withChannel .bassDrum ⟨0, 0, 0, 0⟩ 0 0 0 0)).response = ⟨.ok, 0⟩ := by decide
/-- P3, steps 13 and 14. -/
theorem test_pRead :
    (pRead tc .ch0 7 (withChannel .lfo ⟨0, 0, 0, 0⟩ 0 4 4 0)).response = ⟨.ok, 4⟩ ∧
    (pRead tc .ch0 6 (withChannel .lfo ⟨0, 0, 0, 0⟩ 0 4 4 0)).response = ⟨.ok, 4⟩ := by decide
/-- RG5, and a select out of range. -/
theorem test_pRead_fault : (pRead tc .ch0 6 t0).response = ⟨.ok, 0⟩ ∧ (pRead tc .ch0 9 t0).response = ⟨.fault, 4⟩ := by
  decide

/-! Voices. -/

/-- The outputs of a PulseShaper with the knobs given. -/
def shaperOut (k : Quad U16) (ctrl : List U8) : List S16 :=
  (renderBlock (shaperSample tc) { shaperInit with k := k } ctrl).2

theorem test_PS1 : shaperOut ⟨0, 3, 0, 0⟩ [2, 0, 0, 0, 0] = [32767, 32767, 32767, 0, 0] := by decide
theorem test_PS2 : shaperOut ⟨2, 3, 0, 0⟩ [2, 0, 0, 0, 0, 0] = [0, 0, 32767, 32767, 32767, 0] := by decide
theorem test_PS3 : shaperOut ⟨0, 4, 0, 0⟩ [2, 0, 2, 0, 0, 0, 0] =
    [32767, 32767, 0, 32767, 32767, 32767, 0] := by decide
theorem test_PS4 : shaperOut ⟨0, 2, 1, 1⟩ [2, 0, 0, 0, 0, 0] = [32767, 32767, 0, 32767, 32767, 0] := by decide

/-- A PulseRandomizer's outputs and the noise state after, from `S.rng = 0`. -/
def randomizerOut (k : Quad U16) (ctrl : List U8) : List S16 × U32 :=
  let (_, ys, d) := randomizerFill tc { randomizerInit with k := k } ctrl ⟨0, 0⟩
  (ys, d.rng)

theorem test_PR1 : randomizerOut ⟨0, 0, 0, 0⟩ [2, 0, 0] = ([0, 0, 0], 0x3C6EF35F) := by decide
theorem test_PR2 : randomizerOut ⟨65535, 0, 0, 0⟩ [2, 0, 0] = ([32767, 32767, 0], 0x47502932) := by decide
theorem test_PR3 : (chance tc 15471 ⟨0, 0⟩).1 = true ∧ (chance tc 15470 ⟨0, 0⟩).1 = false := by decide

theorem test_BB1 :
    let r := ballSample tc ({ ballInit tc with k := ⟨0, 0, 65535, 0⟩ }, 0) 2
    (r.1.1.position, r.2) = (0x7FFF8000, 32767) := by decide
/-- BB2, the second sample: the floor bounce. -/
theorem test_BB2 :
    let r := ballSample tc ({ ballInit tc with position := 500, velocity := BitVec.ofInt 32 (-1000), gravity := 1000 }, 0) 0
    (r.1.1.position, r.1.1.velocity) = (0, 2000) := by decide
theorem test_BB3 : bounce 32768 (-2000) = 1000 ∧ bounce 65535 (-3) = 1 := by decide

theorem test_LF1 : [0, 13107, 13108, 26214, 32768, 65535].map (fun k => lfoShapeOfKnob k) =
    [.sine, .sine, .triangle, .triangle, .square, .noise] := by decide
theorem test_LF2 : lfoScale 32767 0 = 0 ∧ lfoScale (-32768) 0 = -1 := by decide
/-- LF5: nine samples of a noise Lfo. -/
theorem test_LF5 :
    let l : Lfo := { lfoInit tc with phaseInc := 0x40000000, shape := .noise, k := ⟨16384, 65535, 0, 65535⟩ }
    let (_, ys, d) := lfoFill tc l [0, 0, 0, 0, 0, 0, 0, 0, 0] ⟨0, 0⟩
    (ys, d.rng) = ([0, 0, 0, 0, 3867, 7735, 11602, 15470, 16166], 0x47502932) := by decide
/-- LF6. -/
theorem test_LF6 :
    let l : Lfo := { lfoInit tc with phase := 5, phaseInc := 9, count := 7 }
    let r := (lfoSample tc (l, ⟨0, 0⟩) 2).1.1
    (r.phase, r.count, r.phaseInc) = (0, 0, 9) := by decide
/-- FM2: `rc` runs on across blocks of 6. -/
theorem test_FM2 : (renderBlock (fmSample tc) (fmInit tc) [0, 0, 0, 0, 0, 0]).1.rc = 2 := by decide

/-! Oscillator commands. -/

theorem test_oInit : (oInit tc (t0.withOsc { t0.osc with pitch := 5, strike := true, prevShape := 1 })).osc =
    oscInit tc ∧ (oscInit tc).firstRender = true := by decide
/-- O4. -/
theorem test_oSetShape : (oSetShape tc 1 t0).osc.shape = 1 ∧ (oSetShape tc 1 t0).osc.prevShape = 0 ∧
    (oSetShape tc 2 t0).response = ⟨.fault, 5⟩ := by decide
/-- O6. -/
theorem test_oSetParameters : (oRead 3 (oSetParameters 16384 0xFFFF t0)).response = ⟨.ok, 0xFFFFFFFF⟩ := by decide
/-- O3. -/
theorem test_oSetPitch_O3 : smoothPitch tc 12000 13001 = 12500 ∧ smoothPitch tc 13000 12001 = 12500 ∧
    smoothPitch tc 12500 100 = 100 ∧ smoothPitch tc 11520 13000 = 13000 := by decide
/-- O7. -/
theorem test_oSetPitch_O7 : (oRead 1 (oSetPitch tc 0x8000 t0)).response = ⟨.ok, 0xFFFF8000⟩ := by decide
/-- O5. -/
theorem test_oStrike : (oRead 6 (oStrike t0)).response = ⟨.ok, 1⟩ ∧
    (oRender tc 1 (oStrike t0)).osc.strike = true := by decide
/-- O1. -/
theorem test_O1 : [2176, 640, 1600, 1536, 1535, 2240, 3071, 3072, 32767, 0].map
      (fun p => (computePhaseIncrement tc p).toNat) =
    [17000, 8500, 12500, 12000, 11996, 17500, 23992, 23992, 23992, 6000] := by decide
theorem test_O1_negative : [-1, -1536, -32768].map
      (fun p => (computePhaseIncrement tc (BitVec.ofInt 16 p)).toNat) = [5998, 3000, 0] := by decide
/-- P4, step 4: the samples, the phase, and the shape init. -/
theorem test_oRender_P4 :
    let t := oRender tc 4 { t0 with osc := { t0.osc with shape := 1, pitch := 2176 }, hostPort := [(2, 1)] }
    (t.hostPort, t.osc.phase, t.osc.phaseInc, t.osc.firstRender, t.osc.prevShape) =
      ([(2, 1), (256, 0x68), (257, 0x42), (258, 0xD0), (259, 0x84), (260, 0x68), (261, 0x42), (262, 0xD0),
        (263, 0x84)], 34000, 17000, false, 1) := by decide
theorem test_oRender_size : (oRender tc 0 t0).response = ⟨.fault, 6⟩ ∧ (oRender tc 257 t0).response = ⟨.fault, 6⟩ := by
  decide
theorem test_oRead : (oRead 7 t0).response = ⟨.ok, 1⟩ ∧ (oRead 9 t0).response = ⟨.fault, 4⟩ := by decide

/-! DAC, host port and system commands. -/

/-- D1, D4 and D5. -/
theorem test_dacCode : (dacCode .unsigned16 0 0 t0).response = ⟨.ok, 32767⟩ ∧
    (dacCode .unsigned16 0 0x8000 (t0.withDacOffset 0 1)).response = ⟨.ok, 65535⟩ ∧
    (dacCode .unsigned16 0 0x84D0 t0).response = ⟨.ok, 64303⟩ := by decide
/-- D3 and D6. -/
theorem test_dacCode_clamps : (dacCode .unsigned16 1 32767 (dacSetOffset 1 0xFFF6 t0)).response = ⟨.ok, 0⟩ ∧
    (dacCode .signed16 0 0xFFFF t0).response = ⟨.ok, 32767⟩ := by decide
/-- Y7. -/
theorem test_dacSetOffset : (sysStatus 5 (dacSetOffset 1 0xFFF6 t0)).response = ⟨.ok, 0xFFFFFFF6⟩ ∧
    (dacSetOffset 2 0 t0).response = ⟨.fault, 4⟩ := by decide
/-- M2. -/
theorem test_mRead8 : (mRead8 0x101 { t0 with hostPort := [(256, 0xFE), (257, 0xFF)] }).response = ⟨.ok, 0xFF⟩ ∧
    (mRead8 0x300 t0).response = ⟨.fault, 7⟩ := by decide
theorem test_mRead16 : (mRead16 0x100 { t0 with hostPort := [(256, 0xFE), (257, 0xFF)] }).response = ⟨.ok, 0xFFFE⟩ ∧
    (mRead16 0x2FF t0).response = ⟨.fault, 7⟩ ∧ (mRead16 0x101 t0).response = ⟨.fault, 8⟩ := by decide
/-- A write of 0 unlists the byte. -/
theorem test_mWrite8 : (mWrite8 2 1 t0).hostPort = [(2, 1)] ∧
    (mWrite8 2 0 { t0 with hostPort := [(2, 1), (5, 5)] }).hostPort = [(5, 5)] := by decide
/-- M1. -/
theorem test_mWrite16 : (mWrite16 0 0x0100 t0).hostPort = [(1, 1)] ∧
    (mWrite16 0x2FE 0x1234 t0).hostPort = [(766, 0x34), (767, 0x12)] := by decide
/-- Y2. -/
theorem test_sysStatus : (sysStatus 0 tHalted).response = ⟨.ok, 0x51⟩ ∧
    (sysStatus 1 tHalted).response = ⟨.ok, 0x000C0000⟩ ∧ (sysStatus 2 tHalted).response = ⟨.ok, 0x11000000⟩ := by
  decide
/-- Y4. -/
theorem test_sysStatus_fault : (sysStatus 6 tHalted).response = ⟨.fault, 4⟩ ∧ (sysStatus 6 tHalted).sys = tHalted.sys ∧
    (sysStatus 6 t0).sys.status = 0x41 := by decide
/-- Y6. -/
theorem test_sysReset : (sysReset tc tHalted).sys = t0.sys ∧ (sysReset tc tHalted).response = ⟨.ok, 0⟩ := by decide

/-! Renderers and configurations. -/

/-- A renderer of two calls and a draw. -/
def tcCalls : Params :=
  { renderShape := fun _ i =>
      .call (.excTrigger 0 7) fun _ => .call (.excProcess 0) fun v =>
        let r := nextRandom tc i.rng
        .result ⟨v, i.union, i.scratch, r, fun _ => r.extractLsb' 0 16⟩ }

/-- What a renderer's calls do is what rules R194, R195 and R168 say; its results are rule R399's. -/
theorem test_render_calls :
    let t := oRender tcCalls 1 (State.resetWith tcCalls)
    (t.osc.phase, t.osc.exc.a0, t.sys.rng, t.hostPort.read16 256) =
      (7, ⟨0, 4093, 0, 7, 7⟩, 0x3C6EF35F, 0xF35F) := by decide

/-- An excitation that is a product of its pulses is no sum of them (41_excitation.md rule R197). -/
theorem test_excite_refused :
    ¬ DrumConforms tc { tc.bd with excite := fun v _ _ rng => (v.a0.toInt * v.a1.toInt, rng) } := fun h => by
  obtain ⟨used, offset, hd, hs⟩ := h.excite_sums (Triple.same true) (bassInit tc) 0
  have h1 := hs ⟨2, 3, 0⟩
  obtain ⟨x, y, z⟩ := used
  rw [hd rfl] at h1
  cases x <;> cases y <;> cases z <;> exact absurd h1 (by decide)

/-- An FmDrum just selected, as the refusals below trigger it. -/
theorem fmSelected (c : Params) : FmReached c (fmConfigure c (fmInit c) (Quad.same 0) .full) :=
  .selected (Quad.same 0) .full

/-- Knobs at 0, and knobs turned from 0 to 1 after the first step. -/
theorem test_knobs_held : HeldAtLast (fun _ => Quad.same 0) ∧
    HeldAtLast (fun n => Quad.same (if n = 0 then 0 else 1)) :=
  ⟨⟨0, fun _ _ => rfl⟩, 1, fun n h => by simp [show n ≠ 0 by omega]⟩

/-- An amplitude envelope that dies in one step, from level 1, does not outlast an index envelope that stays
at 1000 (rule R247). -/
theorem test_fm_refused :
    ¬ FmConforms
      { fm :=
          { trigger := fun m => ⟨0, 0, 1, 1000, 0, m.x⟩
            envStep := fun a b c _ => if b.natAbs = 1 then (a, 0, c + 1) else (0, b, c + 1) } } := fun h => by
  have hf := (h.decay _ (fun _ => Quad.same 0) (fmSelected _) rfl test_knobs_held.1).index_below 1
  exact absurd hf (by decide)

/-- Nor does it where it halves and the index falls by 1 from the same level: from 4, to 2 and 3. -/
theorem test_fm_refused_halving :
    ¬ FmConforms
      { fm :=
          { trigger := fun m => ⟨0, 0, 4, 4, 0, m.x⟩
            envStep := fun a b c _ => (a.natAbs / 2, (b.natAbs - 1 : Nat), c + 1) } } := fun h => by
  have hf := (h.decay _ (fun _ => Quad.same 0) (fmSelected _) rfl test_knobs_held.1).index_below 1
  exact absurd hf (by decide)

/-- Envelopes that fall linearly, the amplitude by 1000 a step and the index by 2. -/
def fmLinear : FmOpen := { envStep := fun a b c _ => (max 0 (a - 1000), max 0 (b - 2), c + 1) }

theorem envRun_fmLinear (knobs : Nat → Quad U16) (n : Nat) (c : Int) :
    (envRun fmLinear knobs (100000, 100, c) n).1 = max 0 (100000 - 1000 * (n : Int)) ∧
    (envRun fmLinear knobs (100000, 100, c) n).2.1 = max 0 (100 - 2 * (n : Int)) := by
  induction n with
  | zero => exact ⟨rfl, rfl⟩
  | succ n ih =>
    simp only [envRun, fmLinear] at ih ⊢
    rw [ih.1, ih.2]
    push_cast
    omega

/-- From 100000 and 100 the index is gone after half the steps the amplitude takes: it decays faster, though
by less a step (rule R247). -/
theorem test_fm_linear (knobs : Nat → Quad U16) : EnvelopesDecay fmLinear knobs (100000, 100, 0) := by
  have ha (n : Nat) : ampLevel fmLinear knobs (100000, 100, 0) n = (max 0 (100000 - 1000 * (n : Int))).natAbs :=
    congrArg Int.natAbs (envRun_fmLinear knobs n 0).1
  have hi (n : Nat) : indexLevel fmLinear knobs (100000, 100, 0) n = (max 0 (100 - 2 * (n : Int))).natAbs :=
    congrArg Int.natAbs (envRun_fmLinear knobs n 0).2
  have ha0 : (max 0 (100000 - 1000 * ((0 : Nat) : Int))).natAbs = 100000 := by decide
  have hi0 : (max 0 (100 - 2 * ((0 : Nat) : Int))).natAbs = 100 := by decide
  refine ⟨fun n => ?_, ⟨50, ?_⟩, fun n => ?_, ⟨25, ?_⟩, fun n => ?_, fun _ _ => ⟨1, ?_⟩⟩
  all_goals simp only [ha, hi, ha0, hi0]; omega

/-- An amplitude envelope that doubles does not decay, whether or not the trigger starts the index. -/
theorem test_fm_refused_growing (index : Int) :
    ¬ FmConforms
      { fm :=
          { trigger := fun m => ⟨0, 0, 2, index, 0, m.x⟩
            envStep := fun a b c _ => (2 * a, b, c + 1) } } := fun h => by
  have hf : (2 * 2 : Int).natAbs ≤ (2 : Int).natAbs :=
    (h.decay _ (fun _ => Quad.same 0) (fmSelected _) rfl test_knobs_held.1).amp_falls 0
  exact absurd hf (by decide)

/-- Nor one that doubles once a knob is turned after the trigger. -/
theorem test_fm_refused_turned :
    ¬ FmConforms
      { fm :=
          { trigger := fun m => ⟨0, 0, 4, 4, 0, m.x⟩
            envStep := fun a _ c k => (if k.a0 = 0 then a.natAbs / 2 else 2 * a, 0, c + 1) } } := fun h => by
  have hf := (h.decay _ (fun n => Quad.same (if n = 0 then 0 else 1)) (fmSelected _) rfl test_knobs_held.2).amp_falls 1
  exact absurd hf (by decide)

/-- A chirp that stands still is refused, though the trigger starts no index envelope. -/
theorem test_fm_refused_frozen :
    ¬ FmConforms
      { fm :=
          { trigger := fun m => ⟨0, 0, 2, 0, 7, m.x⟩
            envStep := fun a _ c _ => (a.natAbs / 2, 0, c) } } := fun h => by
  obtain ⟨n, hn⟩ := h.chirp_advances _ (fun _ => Quad.same 0) (fmSelected _) rfl test_knobs_held.1
  refine hn ?_
  induction n with
  | zero => rfl
  | succ n ih => exact ih fun heq => hn heq

/-- Slopes of 0 do not reach the marks of rule R323. -/
theorem test_slopes_refused : ¬ SlopesReach 32768 0 0 := fun h => absurd (h.attack_ends (by decide)) (by decide)

/-- A HighHat that takes bit 7 for a part of its trigger does not react to a control byte of rule R130. -/
theorem test_hat_refused :
    ¬ HatReacts { hh := { sample := fun h b rng => ((h, if b.getLsbD 7 && b.getLsbD 1 then 1 else 0), rng) } } :=
  fun h => by
    obtain ⟨_, _, _, _, _, hne⟩ := h [] 0
    exact hne rfl

/-! Witnesses: for each statement with hypotheses, a state and operands that meet them together; a
statement with several clauses has one for each, at the bounds of their ranges. -/

/-- The block right after reset, with a command issued. -/
def issued (w : Nat) : State := State.reset.withFetchWord 64 w

/-- The same, halted by the fault of P2, step 7. -/
def issuedHalted (w : Nat) : State := (issued w).withStatus 0x51

/-- The block after reset with a function selected on channel 0 by hand. -/
def selected (f : FunctionCode) : State := State.reset.withProc .ch0 { State.reset.p0 with function := f }

/-- `selected .lfo` with `q` samples queued, the rings coupled. -/
def queued (q : Nat) : State :=
  State.reset.withProc .ch0
    { State.reset.p0 with
      function := .lfo
      inRing := ⟨List.replicate cfg.ringCapacity 0, q, 0⟩
      outRing := ⟨List.replicate cfg.ringCapacity 0, 0, q⟩ }

theorem witness_EncodeDecode : decode 0x1110000000010000 = .ok (.pSetFunction .ch1 1) := by decide

theorem witness_StepRunsDecoded : (issued 0x2420000000000000).pending = [0x2420000000000000] ∧
    decode 0x2420000000000000 = .ok .oStrike := ⟨rfl, by decide⟩

theorem witness_FaultEntry : (issued 0x11000000000C0000).pending = [0x11000000000C0000] ∧
    (issued 0x11000000000C0000).halted = false ∧ commandFault cfg 0x11000000000C0000 = some .badEnum ∧
    commandFault cfg 0x1150000000630000 = some .badUnit := ⟨rfl, rfl, rfl, rfl⟩

/-- The bounds of every clause of OperandFaults; the one on shape codes is for configurations with fewer
than 65536 shapes, such as `tc`. -/
theorem witness_OperandFaults : State.reset.halted = false ∧ 12 ≤ (12 : U16).toNat ∧ 4 ≤ (4 : BitVec 4).toNat ∧
    2 ≤ (2 : U16).toNat ∧ 9 ≤ (9 : BitVec 4).toNat ∧ tc.numShapes ≤ (2 : U16).toNat ∧ (0 : U16).toNat = 0 ∧
    256 < (257 : U16).toNat ∧ 3 ≤ (3 : BitVec 4).toNat ∧ (2 : BitVec 4).toNat < 3 ∧ 4 ≤ (4 : U16).toNat ∧
    2 ≤ (2 : BitVec 4).toNat ∧ 768 ≤ (768 : U16).toNat ∧ 767 ≤ (767 : U16).toNat ∧ (765 : U16).toNat < 767 ∧
    (765 : U16).toNat % 2 = 1 ∧ 6 ≤ (6 : BitVec 4).toNat := ⟨rfl, by decide⟩

/-- Any other command, one that fails a check, `sys.status`, and `sys.reset`. -/
theorem witness_HaltedState : (issuedHalted 0).pending = [0] ∧ (issuedHalted 0).halted = true ∧ opOf 0 ≠ 0x60 ∧
    opOf 0 ≠ 0x61 ∧ opOf 0x6036000000000000 = 0x60 ∧ commandFault cfg 0x6036000000000000 = some .badIndex ∧
    opOf 0x6130000000010000 = 0x61 ∧ commandFault cfg 0x6130000000010000 = some .reservedNonzero ∧
    (0x6035000000000000 : Command) = encode (.sysStatus 5) ∧ (readSystem State.reset.sys 5).isSome ∧
    (0x6130000000000000 : Command) = encode .sysReset :=
  ⟨rfl, by decide, by decide, by decide, by decide, rfl, by decide, rfl, by decide, rfl, by decide⟩

theorem witness_FaultsDoNotNest : (issuedHalted 0x6036000000000000).halted = true ∧
    (∃ t, step (issuedHalted 0x6036000000000000) = .next t ∧ t.halted = true) ∧
    (issuedHalted 0x6130000000000000).halted = true ∧
    ∃ t, step (issuedHalted 0x6130000000000000) = .next t ∧ t.halted = false :=
  ⟨by decide, ⟨_, rfl, by decide⟩, by decide, ⟨_, rfl, rfl⟩⟩

theorem witness_IdleStep : State.reset.pending = [] := rfl

theorem witness_StatusSticky : (∃ t, step ((issued 0x2420000000000000).withStatus 0x8100) = .next t) ∧
    (∀ rest, ((issued 0x2420000000000000).withStatus 0x8100).pending ≠ encode .sysReset :: rest) ∧
    (0x8100 : U32).getLsbD 8 = true ∧ (0x8100 : U32).getLsbD 15 = true ∧
    (issued 0x6130000000000000).pending = [encode .sysReset] := by
  refine ⟨⟨_, rfl⟩, ?_, by decide, by decide, by decide⟩
  intro rest h
  exact absurd (List.cons.inj h).1 (by decide)

theorem witness_SysStatus : 6 ≤ (6 : BitVec 4).toNat ∧ State.reset.halted = false ∧ tHalted.halted = true :=
  ⟨by decide, rfl, by decide⟩

/-- Also for DacSetOffset. -/
theorem witness_DacCode : State.reset.halted = false ∧ (0 : BitVec 4).toNat = (0 : Fin 2).val ∧
    (1 : BitVec 4).toNat = (1 : Fin 2).val ∧ 2 ≤ (2 : BitVec 4).toNat := ⟨rfl, rfl, rfl, by decide⟩

/-- The bounds of the address clauses of HostReads, HostWrite8 and HostWrite16. -/
theorem witness_Host : State.reset.halted = false ∧ State.reset.hostPort.wf ∧ (767 : U16).toNat < 768 ∧
    768 ≤ (768 : U16).toNat ∧ (766 : U16).toNat < 767 ∧ (766 : U16).toNat % 2 = 0 ∧ 767 ≤ (767 : U16).toNat ∧
    (765 : U16).toNat < 767 ∧ (765 : U16).toNat % 2 = 1 :=
  ⟨rfl, reset_memoryOk.1, by decide⟩

theorem witness_ExcSetters : State.reset.halted = false ∧ (3 : BitVec 4).toNat = (3 : Fin 4).val := ⟨rfl, rfl⟩

/-- On the injecting process, with a negative level. -/
theorem witness_ExcProcess :
    let e : Excitation := ⟨3, 2048, 1, 62, BitVec.ofInt 32 (-200)⟩
    (State.reset.withExc 0 e).halted = false ∧ (State.reset.withExc 0 e).osc.exc.get 0 = e ∧
    e.state.toNat * e.decay.toNat < 2 ^ 31 ∧ e.state.toNat + e.level.toInt.natAbs < 2 ^ 31 ∧
    e.level.toInt ≠ -2 ^ 31 ∧ e.level.toInt < 0 ∧ e.counter = 1 ∧ e.decay.toNat ≤ 4096 :=
  ⟨rfl, rfl, by decide, by decide, by decide, by decide, rfl, by decide⟩

theorem witness_ExcProcessBeyond :
    let e : Excitation := ⟨0, 4093, 1, 0, 0x80000000⟩
    (State.reset.withExc 0 e).halted = false ∧ (State.reset.withExc 0 e).osc.exc.get 0 = e ∧ excInRange e = false :=
  ⟨rfl, rfl, by decide⟩

theorem witness_ExcDone : State.reset.halted = false ∧ (0 : BitVec 4).toNat = (0 : Fin 4).val ∧
    4 ≤ (4 : BitVec 4).toNat := ⟨rfl, rfl, by decide⟩

theorem witness_ExcDecay :
    let e : Excitation := ⟨0, 4095, 0, 1000, BitVec.ofInt 32 (-7)⟩
    e.decay.toNat ≤ 4095 ∧ e.counter = 0 ∧ excInRange e = true ∧ 0 < e.state.toNat := by decide

theorem witness_SvfSetters : State.reset.halted = false ∧ (2 : BitVec 4).toNat = (2 : Fin 3).val ∧
    ((3 : U16).toNat, SvfMode.peak) ∈
      [(0, SvfMode.lp), (1, SvfMode.bp), (2, SvfMode.hp), (3, SvfMode.peak)] := ⟨rfl, rfl, by decide⟩

theorem witness_SvfProcess : State.reset.halted = false ∧ (0 : BitVec 4).toNat = (0 : Fin 3).val := ⟨rfl, rfl⟩

theorem witness_SvfSaturation : ([0x7FFF] : List S16) ≠ [] ∧ svfInRange ⟨32767, 0, 0, 0, 0, .lp⟩ := by decide

/-- Also for PInit and for every other statement whose one hypothesis is that the block runs. -/
theorem witness_PSetFunction : State.reset.halted = false ∧ (0 : U16).toNat = FunctionCode.bassDrum.code ∧
    (11 : U16).toNat = FunctionCode.tapLfo.code ∧ FunctionCode.tapLfo.usesLfo = true ∧
    FunctionCode.bassDrum.usesLfo = false ∧ State.reset.p0.function.usesLfo = false ∧
    (selected .lfo).halted = false ∧ (selected .lfo).p0.function.usesLfo = true :=
  ⟨rfl, rfl, rfl, rfl, rfl, rfl, rfl, rfl⟩

theorem witness_LfoTempoKept : (selected .lfo).halted = false ∧ (11 : U16).toNat = FunctionCode.tapLfo.code ∧
    FunctionCode.tapLfo.usesLfo = true ∧ ((selected .lfo).proc .ch0).function.usesLfo = true ∧
    (9 : U16).toNat = FunctionCode.lfo.code ∧ FunctionCode.lfo.usesLfo = true ∧
    ((selected .tapLfo).proc .ch0).function.usesLfo = true :=
  ⟨rfl, rfl, rfl, rfl, rfl, rfl, rfl⟩

theorem witness_PSetParameter : State.reset.halted = false ∧ (3 : BitVec 4).toNat = (3 : Fin 4).val := ⟨rfl, rfl⟩

theorem witness_PSetControlMode : State.reset.halted = false ∧ (1 : U16).toNat = ControlMode.half.code := ⟨rfl, rfl⟩

/-- The bounds of rule R357 on both switches. -/
theorem witness_HysteresisSwitch : (selected .snareDrum).halted = false ∧ (2 : BitVec 4).toNat = (2 : Fin 4).val ∧
    ((selected .snareDrum).proc .ch0).function = .snareDrum ∧ ((selected .highHat).proc .ch0).function = .highHat ∧
    (hysteresis tc (withChannel .snareDrum ⟨0, 65001, 65001, 0⟩ 0 0 0 0).p0).function = .highHat ∧
    (hysteresis tc (withChannel .snareDrum ⟨0, 65000, 65535, 0⟩ 0 0 0 0).p0).function = .snareDrum ∧
    (hysteresis tc (withChannel .highHat ⟨0, 64500, 64500, 0⟩ 0 0 0 0).p0).function = .highHat ∧
    (hysteresis tc (withChannel .highHat ⟨0, 64499, 65535, 0⟩ 0 0 0 0).p0).function = .snareDrum :=
  ⟨rfl, rfl, rfl, rfl, by decide⟩

theorem witness_PProcessUnbuffered : State.reset.halted = false ∧
    (State.reset.proc .ch0).function.buffered = false := ⟨rfl, rfl⟩

theorem witness_PProcessBuffered : (selected .lfo).halted = false ∧
    ((selected .lfo).proc .ch0).function.buffered = true := ⟨rfl, rfl⟩

/-- A channel whose rings have their cells and whose pools are those of `p.init` is in order. -/
theorem queued_channelOk (q : Nat) (h : q < cfg.ringCapacity) : ChannelOk cfg ((queued q).proc .ch0) :=
  have h0 := channelOk_init cfg (by omega)
  ⟨⟨by simp [queued], h, by show 0 < cfg.ringCapacity; omega⟩,
    ⟨by simp [queued], by show 0 < cfg.ringCapacity; omega, h⟩, h0.2.2.1, h0.2.2.2⟩

theorem queued_readable (q : Nat) (h : q < cfg.ringCapacity) :
    ((queued q).proc .ch0).outRing.readable cfg.ringCapacity = q :=
  (Ring.readable_cases (g := ((queued q).proc .ch0).outRing) (by show 0 < cfg.ringCapacity; omega) h).trans
    (by simp [queued])

/-- Nothing to do on an unbuffered function; a block to render on a buffered one with empty rings. -/
theorem witness_PBuffer : State.reset.halted = false ∧ ChannelOk cfg (State.reset.proc .ch0) ∧
    (State.reset.proc .ch0).function.buffered = false ∧ (queued 0).halted = false ∧
    ChannelOk cfg ((queued 0).proc .ch0) ∧ ((queued 0).proc .ch0).function.buffered = true ∧
    cfg.blockSize ≤ ((queued 0).proc .ch0).outRing.writable cfg.ringCapacity := by
  have hb := cfg_wellFormed.block_pos
  have hr := cfg_wellFormed.ring_room
  have hn : 0 < cfg.ringCapacity := by omega
  refine ⟨rfl, channelOk_init cfg hn, rfl, rfl, queued_channelOk 0 hn, rfl, ?_⟩
  rw [Ring.writable_cases (g := ((queued 0).proc .ch0).outRing) hn hn]
  show _ ≤ if (0 : Nat) < 0 then 0 - 0 - 1 else 0 + cfg.ringCapacity - 0 - 1
  simp
  omega

theorem witness_PRead : State.reset.halted = false ∧ 9 ≤ (9 : BitVec 4).toNat := ⟨rfl, by decide⟩

theorem witness_RingCounts : RingOk 8 (⟨List.replicate 8 0, 5, 4⟩ : Machine.Ring S16) ∧
    RingOk 8 (⟨List.replicate 8 0, 7, 7⟩ : Machine.Ring S16) := by
  unfold RingOk
  decide

/-- No sample queued, one, and, where the capacity allows it, two. -/
theorem witness_RingFlags : (∀ q, (queued q).halted = false ∧ ((queued q).proc .ch0).function.buffered = true ∧
      Coupled ((queued q).proc .ch0)) ∧
    (∀ q < cfg.ringCapacity, ChannelOk cfg ((queued q).proc .ch0) ∧
      ((queued q).proc .ch0).outRing.readable cfg.ringCapacity = q) ∧ 1 < cfg.ringCapacity := by
  have hb := cfg_wellFormed.block_pos
  have hr := cfg_wellFormed.ring_room
  exact ⟨fun q => ⟨(rfl : State.reset.halted = false), rfl, rfl, rfl⟩, fun q h => ⟨queued_channelOk q h, queued_readable q h⟩, by omega⟩

theorem witness_OscSetters : State.reset.halted = false ∧ (0 : U16).toNat < cfg.numShapes :=
  ⟨rfl, cfg_wellFormed.shapes_pos⟩

/-- Both clauses of OscSetPitch, on thresholds of test configurations. -/
theorem witness_OscSetPitch : State.reset.halted = false ∧ tc.pitchSmoothThreshold.toInt < (11521 : S16).toInt ∧
    (11520 : S16).toInt ≤ tc.pitchSmoothThreshold.toInt := ⟨rfl, by decide, by decide⟩

theorem witness_PhaseIncrementMonotone : ({} : Params).WellFormed ∧ (0x8000 : S16).toInt ≤ (0x7FFF : S16).toInt :=
  ⟨Params.default_wellFormed, by decide⟩

theorem witness_PhaseIncrementOctave : ({} : Params).WellFormed ∧
    (1535 : S16).toInt < ({} : Params).pitchTableStart.toInt ∧ (3071 : S16).toInt = (1535 : S16).toInt + 1536 :=
  ⟨Params.default_wellFormed, by decide, by decide⟩

/-- A size at each bound; reset's memory is in canonical form. -/
theorem witness_OscRender : State.reset.halted = false ∧ 1 ≤ (1 : U16).toNat ∧ (256 : U16).toNat ≤ 256 ∧
    State.reset.hostPort.wf := ⟨rfl, by decide, by decide, reset_memoryOk.1⟩

theorem witness_RenderForgets :
    let s := State.reset.withOsc { oscInit cfg with shape := 1 }
    let o := { oscInit cfg with shape := 1, prevShape := 2, phase := 7, union := [1], firstRender := false }
    s.halted = false ∧ 1 ≤ (4 : U16).toNat ∧ (4 : U16).toNat ≤ 256 ∧ s.osc.shape ≠ s.osc.prevShape ∧
    o.shape ≠ o.prevShape ∧ o.shape = s.osc.shape ∧ o.pitch = s.osc.pitch ∧ o.param = s.osc.param ∧
    o.strike = s.osc.strike :=
  ⟨rfl, by decide, by decide, by decide, by decide, rfl, rfl, rfl, rfl⟩

theorem witness_DrumPulsesRest : ∀ b ∈ ([0, 1, 5] : List U8), rising b = false := by decide

/-- In FULL after `p.init`, and in HALF. -/
theorem witness_ConfigureKnobs : State.reset.halted = false ∧ (11 : U16).toNat < 12 ∧ (3 : BitVec 4).toNat < 4 ∧
    (1 : U16).toNat < 2 ∧ (pSetControlMode tc .ch0 1 (withChannel .pulseShaper ⟨1, 2, 3, 4⟩ 0 0 0 0)).p0.ps.k =
      ⟨0, 1, 0, 2⟩ := ⟨rfl, by decide⟩

theorem witness_FmRecompute : (fmInit tc).rc = 0 ∧ rising 0 = false ∧ rising 2 = true ∧
    ({ fmInit tc with rc := 3 } : FmDrum).rc ≠ 0 := by decide

theorem witness_ShaperWindow : tc.ps.repetitions (Quad.same 0).a3 = 0 ∧ rising 2 = true ∧
    (∀ x ∈ ([0, 1] : List U8), rising x = false) := by decide

theorem witness_RandomizerSilent : randomizerInit.k.a0 = 0 ∧ ∀ r ∈ randomizerInit.slot, r.active = false := by decide

/-- The velocity one short of each end of the s32 range, and a trigger. -/
theorem witness_BallMotion : rising 2 = true ∧ rising 0 = false ∧
    (-2 ^ 31 : Int) < (0x80000001 : S32).toInt - ((0 : Nat) : Int) ∧
    (0x7FFFFFFF : S32).toInt - ((0 : Nat) : Int) < 2 ^ 31 := by decide

theorem witness_LfoRange : ({} : Params).WellFormed := Params.default_wellFormed

theorem witness_InterpolationBetween : 1 ≤ 24 ∧ (0x2A000000 : U32).toNat % 2 ^ 24 = 0 ∧ (0x2A00 : U16).toNat % 256 = 0 := by
  decide

/-- A block with a command issued, in its invariant and with coupled rings, that takes a step. -/
theorem witness_StepKeepsInvariant : (issued 0x2420000000000000).Inv cfg ∧ (issued 0x2420000000000000).RingsCoupled ∧
    ∃ t, step (issued 0x2420000000000000) = .next t := by
  have hb := cfg_wellFormed.block_pos
  have hr := cfg_wellFormed.ring_room
  have hc := channelOk_init cfg (by omega)
  have hi := channelInit_rings cfg
  have hcoupled : Coupled (channelInit cfg) := by
    unfold Coupled
    rw [hi.1, hi.2]
    exact ⟨rfl, rfl⟩
  refine ⟨⟨⟨fun b _ => by simp [issued, State.withFetchWord, issueFirst, State.reset, State.resetWith],
      fun _ => by decide, fun h => by simp [issued, State.withFetchWord, issueFirst, State.reset, State.resetWith,
        statusFaulted] at h⟩, hc, hc, ?_, reset_memoryOk⟩, ⟨hcoupled, hcoupled⟩, _, rfl⟩
  refine ⟨cfg_wellFormed.shapes_pos, cfg_wellFormed.shapes_pos, List.length_replicate, List.length_replicate,
    fun k => ?_, fun k => ?_⟩
  · show ((oscInit cfg).exc.get k).counter ≤ 65536
    simp only [oscInit, Quad.get_same]
    decide
  · show svfInRange ((oscInit cfg).svf.get k)
    simp only [oscInit, Triple.get_same]
    exact svfInRange_init

end Sys2Proof.Tests
end

section
/-! PROOFS. What a command word decodes to, as far as a halted block and `sys.reset` need it
(30_encoding.md rules R121 to R126). -/

namespace Sys2Proof

/-- What the decoder accepts: the OP has a row, the unit is allowed, no reserved bit is set, and the command is
the one the row builds. -/
theorem row_of_decodeFields {f : Fields} {i : Instr} (h : decodeFields f = .ok i) :
    ∃ r, opRow f.op = some r ∧ r.unit.allows f.unit = true ∧ r.reservedNonzero f = false ∧ r.build f = i := by
  unfold decodeFields at h
  split at h
  · cases h
  · next r hr =>
    split at h
    · cases h
    · next hu =>
      split at h
      · cases h
      · next hz => exact ⟨r, hr, by simpa using hu, by simpa using hz, Except.ok.inj h⟩

/-- The command a row builds has the OP of the row. -/
theorem op_of_opRow {op : U8} {r : OpRow} (h : opRow op = some r) (f : Fields) :
    (fieldsOfInstr (r.build f)).op = op := by
  unfold opRow at h
  split at h <;> cases h
  all_goals exact BitVec.eq_of_toNat_eq (Eq.symm ‹op.toNat = _›)

namespace Machine

/-- A word has the OP of the command it decodes to. -/
theorem opOf_of_decode {w : Command} {i : Instr} (h : decode w = .ok i) : opOf w = (fieldsOfInstr i).op := by
  obtain ⟨r, hr, -, -, rfl⟩ := row_of_decodeFields h
  exact (op_of_opRow hr _).symm

/-- The word of `sys.reset` decodes to it. -/
theorem decode_resetWord : decode (encode .sysReset) = .ok .sysReset := by
  rw [decode, encode, fieldsOf_wordOf]
  exact Laws.FieldsDecode.sysReset

/-- No other word does: `sys.reset` has no operand, so its row checks every bit of the word. -/
theorem eq_resetWord_of_decode {w : Command} (h : decode w = .ok .sysReset) : w = encode .sysReset := by
  have hop : (fieldsOf w).op = 0x61 := opOf_of_decode h
  obtain ⟨r, hr, hu, hz, -⟩ := row_of_decodeFields h
  rw [hop] at hr
  cases hr
  have hunit : (fieldsOf w).unit = 3 := by simpa [UnitKind.allows] using hu
  have hall : ∀ x : U16, x &&& 0xFFFF#16 = x := fun x => BitVec.and_allOnes
  obtain ⟨⟨⟨hrsv, hsub⟩, ha⟩, hb⟩ :
      (((fieldsOf w).rsv = 0 ∧ (fieldsOf w).sub = 0) ∧ (fieldsOf w).a = 0) ∧ (fieldsOf w).b = 0 := by
    simpa [OpRow.reservedNonzero, hall] using hz
  have hf : fieldsOf w = fieldsOfInstr .sysReset := by
    cases hw : fieldsOf w
    simp_all [fieldsOfInstr]
  rw [encode, ← hf, wordOf_fieldsOf]

/-! A step runs the command decoded, halted or not. -/

/-- Every meaning but those of `sys.status` and `sys.reset` refuses while the block is halted
(60_exceptions.md rule R453). -/
theorem exec_halted {i : Instr} {s : State} (h : s.halted = true) (hs : ∀ sel, i ≠ .sysStatus sel)
    (hr : i ≠ .sysReset) : exec i s = .next (s.respond .halted 0) := by
  cases i
  case sysStatus sel => exact absurd rfl (hs sel)
  case sysReset => exact absurd rfl hr
  all_goals exact congrArg Host.Outcome.next (whenRunning_halted s _ h)

/-- A word that a halted block does not accept is neither that of `sys.status` nor that of `sys.reset`. -/
theorem not_system_of_refused {w : Command} {i : Instr} (hd : decode w = .ok i) (ha : acceptedHalted w = false) :
    (∀ sel, i ≠ .sysStatus sel) ∧ i ≠ .sysReset := by
  rw [acceptedHalted, opOf_of_decode hd] at ha
  exact ⟨fun sel hi => by subst hi; simp [fieldsOfInstr] at ha, fun hi => by subst hi; simp [fieldsOfInstr] at ha⟩

/-- Settles O5: a word refused unread while the block is halted decodes to a command whose meaning makes the same
refusal. -/
theorem stepRunsDecoded : Obligations.StepRunsDecoded := by
  intro s w rest i hp hd
  by_cases ha : s.halted = false ∨ acceptedHalted w = true
  · simp only [step, takeCommand_run s w rest i hp ha hd]
  · obtain ⟨hh, ha⟩ : s.halted = true ∧ acceptedHalted w = false := by simpa using ha
    obtain ⟨hs, hr⟩ := not_system_of_refused hd ha
    simp only [step, takeCommand_halted s w rest hp hh ha]
    exact (exec_halted (s := { s with pending := rest }) hh hs hr).symm

end Machine
end Sys2Proof
end

section
/-! PROOFS. What a step can do to the block, said once (20_memory.md rule R91; 60_exceptions.md rules R452 and R453). -/

namespace Sys2Proof.Machine

open Sys2Proof.Config

/-! What the operand forms give the meanings (Machine/Operands.lean). -/

theorem lt_of_shapeOf {c : Params} {code : U16} {n : Nat} (h : shapeOf c code = some n) : n < c.numShapes := by
  unfold shapeOf at h
  split at h <;> cases h
  assumption

theorem le_of_renderSize {size : U16} {n : Nat} (h : renderSize size = some n) : n ≤ 256 := by
  unfold renderSize at h
  split at h <;> cases h
  omega

theorem lt_of_address8 {a : U16} {n : Nat} (h : address8 a = .ok n) : n < 768 := by
  unfold address8 at h
  split at h <;> cases h
  simpa [mapped] using ‹mapped a.toNat = true›

theorem lt_of_address16 {a : U16} {n : Nat} (h : address16 a = .ok n) : n + 1 < 768 := by
  rcases Nat.lt_or_ge (a.toNat + 1) 768 with ha | ha
  · rcases Nat.mod_two_eq_zero_or_one a.toNat with he | ho
    · rw [address16_of_even ha he] at h
      cases h
      exact ha
    · rw [address16_of_odd ha ho] at h
      cases h
  · rw [address16_of_ge ha] at h
    cases h

/-! What a command can do. -/

/-- What a command other than `sys.reset` makes of the block, by the unit it acts on. -/
inductive Effect (s : State) : State → Prop where
  /-- Nothing but the response: a read, or a refusal while halted. -/
  | respond (kind : ResponseKind) (value : U32) : Effect s (s.respond kind value)
  /-- A command that fails a check. -/
  | fault (cause : Cause) (word : Command) : Effect s (raiseFault cause word s)
  /-- `p.init`. -/
  | initChannel (ch : Chan) (value : U32) : Effect s ((s.withProc ch (channelInit cfg)).ok value)
  /-- A setter of a channel: a mode, parameters, and voice records written by a Configure. -/
  | configure (ch : Chan) (mode : ControlMode) (param : Quad U16) (p : Processor) (value : U32)
      (keeps : KeepsChannel { s.proc ch with controlMode := mode, param := param } p) :
      Effect s ((s.withProc ch p).ok value)
  /-- `p.process`. -/
  | process (ch : Chan) (ctrl : U8) (value : U32) :
      Effect s ((s.withResult ch (channelProcess cfg ctrl (s.proc ch) s.draws)).ok value)
  /-- `p.buffer`. -/
  | buffer (ch : Chan) (value : U32) :
      Effect s ((s.withResult ch (channelBuffer cfg (s.proc ch) s.draws)).ok value)
  /-- `o.init`. -/
  | initOsc (value : U32) : Effect s ((s.withOsc (oscInit cfg)).ok value)
  /-- A setter of the oscillator's registers. -/
  | oscRegisters (shape : Nat) (pitch : S16) (param : Pair S16) (strike : Bool) (value : U32)
      (legal : shape = s.osc.shape ∨ shape < cfg.numShapes) :
      Effect s
        ((s.withOsc { s.osc with shape := shape, pitch := pitch, param := param, strike := strike }).ok value)
  /-- `o.render`. -/
  | render (n : Nat) (value : U32) (size : n ≤ 256) : Effect s ((renderState cfg n s).ok value)
  /-- `e.*` on an Excitation: the countdown does not grow, or is one a trigger can start. -/
  | excitation (k : Fin 4) (e : Excitation) (value : U32) (free : Nat)
      (counter : e.counter ≤ (s.osc.exc.get k).counter ∨ e.counter ≤ 65536) :
      Effect s { (s.withExc k e).ok value with freeCount := free }
  /-- `s.*` on an Svf: the integrators stay, or are those of a sample or an init. -/
  | svf (k : Fin 3) (v : Svf) (value : U32)
      (integrators : (v.lp = (s.osc.svf.get k).lp ∧ v.bp = (s.osc.svf.get k).bp) ∨ svfInRange v) :
      Effect s ((s.withSvf k v).ok value)
  /-- `dac.set_offset`. -/
  | dacOffset (ch : Fin 2) (offset : S16) (value : U32) : Effect s ((s.withDacOffset ch offset).ok value)
  /-- `m.write8`. -/
  | write8 (a : Nat) (data : U8) (value : U32) (inside : a < 768) :
      Effect s ((s.withHostPort (s.hostPort.write a data)).ok value)
  /-- `m.write16`. -/
  | write16 (a : Nat) (data : U16) (value : U32) (inside : a + 1 < 768) :
      Effect s ((s.withHostPort (s.hostPort.write16 a data)).ok value)

/-- The halted test adds nothing but a response. -/
theorem Effect.whenRunning {s after : State} (h : Effect s after) : Effect s (whenRunning s after) := by
  unfold Machine.whenRunning
  split
  · exact .respond _ _
  · exact h

/-- An `e.*` command has its effect on the Excitation named, or faults. -/
theorem Effect.onExc {s : State} (i : Instr) (k : BitVec 4) {effect : Fin 4 → State}
    (h : ∀ n, Effect s (effect n)) : Effect s (onExc i k s effect) := by
  refine .whenRunning ?_
  split
  · exact .fault _ _
  · exact h _

/-- An `s.*` command has its effect on the Svf named, or faults. -/
theorem Effect.onSvf {s : State} (i : Instr) (k : BitVec 4) {effect : Fin 3 → State}
    (h : ∀ n, Effect s (effect n)) : Effect s (onSvf i k s effect) := by
  refine .whenRunning ?_
  split
  · exact .fault _ _
  · exact h _

/-- Every command but `sys.reset` answers a next state, by one of the effects. -/
theorem exec_effect (i : Instr) (s : State) (h : i ≠ .sysReset) : ∃ t, exec i s = .next t ∧ Effect s t := by
  cases i with
  | pInit ch => exact ⟨_, rfl, .whenRunning (.initChannel ch 0)⟩
  | pSetFunction ch code =>
    refine ⟨_, rfl, .whenRunning ?_⟩
    split
    · exact .fault _ _
    · exact .configure ch _ _ _ 0 (keepsChannel_setFunction cfg _ (s.proc ch))
  | pSetParameter ch index value =>
    refine ⟨_, rfl, .whenRunning ?_⟩
    split
    · exact .fault _ _
    · exact .configure ch _ _ _ 0 (keepsChannel_configure cfg _)
  | pSetControlMode ch code =>
    refine ⟨_, rfl, .whenRunning ?_⟩
    split
    · exact .fault _ _
    · exact .configure ch _ _ _ 0 (keepsChannel_configure cfg _)
  | pProcess ch ctrl => exact ⟨_, rfl, .whenRunning (.process ch (controlByte ctrl) _)⟩
  | pBuffer ch => exact ⟨_, rfl, .whenRunning (.buffer ch _)⟩
  | pRead ch sel =>
    refine ⟨_, rfl, .whenRunning ?_⟩
    split
    · exact .fault _ _
    · exact .respond _ _
  | oInit => exact ⟨_, rfl, .whenRunning (.initOsc 0)⟩
  | oSetShape code =>
    refine ⟨_, rfl, .whenRunning ?_⟩
    split
    · exact .fault _ _
    · next hs => exact .oscRegisters _ _ _ _ 0 (.inr (lt_of_shapeOf hs))
  | oSetParameters p1 p2 => exact ⟨_, rfl, .whenRunning (.oscRegisters _ _ _ _ 0 (.inl rfl))⟩
  | oSetPitch pitch => exact ⟨_, rfl, .whenRunning (.oscRegisters _ _ _ _ 0 (.inl rfl))⟩
  | oStrike => exact ⟨_, rfl, .whenRunning (.oscRegisters _ _ _ _ 0 (.inl rfl))⟩
  | oRender size =>
    refine ⟨_, rfl, .whenRunning ?_⟩
    split
    · exact .fault _ _
    · next hn => exact .render _ 0 (le_of_renderSize hn)
  | oRead sel =>
    refine ⟨_, rfl, .whenRunning ?_⟩
    split
    · exact .fault _ _
    · exact .respond _ _
  | eInit k => exact ⟨_, rfl, .onExc _ k fun n => .excitation n excInit 0 _ (.inr (by decide))⟩
  | eSetDelay k d => exact ⟨_, rfl, .onExc _ k fun n => .excitation n _ 0 _ (.inl (Nat.le_refl _))⟩
  | eSetDecay k d => exact ⟨_, rfl, .onExc _ k fun n => .excitation n _ 0 _ (.inl (Nat.le_refl _))⟩
  | eTrigger k level =>
    exact ⟨_, rfl, .onExc _ k fun n => .excitation n _ 0 _ (.inr (Nat.succ_le_of_lt (s.osc.exc.get n).delay.isLt))⟩
  | eProcess k =>
    refine ⟨_, rfl, .onExc _ k fun n =>
      .excitation n (excProcess cfg (s.osc.exc.get n) s.freeCount).1 _ _ (.inl ?_)⟩
    rw [excProcess_counter]
    exact Nat.sub_le _ _
  | eDone k => exact ⟨_, rfl, .onExc _ k fun _ => .respond _ _⟩
  | sInit k => exact ⟨_, rfl, .onSvf _ k fun n => .svf n svfInit 0 (.inr svfInRange_init)⟩
  | sSetFrequency k f => exact ⟨_, rfl, .onSvf _ k fun n => .svf n _ 0 (.inl ⟨rfl, rfl⟩)⟩
  | sSetResonance k r => exact ⟨_, rfl, .onSvf _ k fun n => .svf n _ 0 (.inl ⟨rfl, rfl⟩)⟩
  | sSetPunch k p => exact ⟨_, rfl, .onSvf _ k fun n => .svf n _ 0 (.inl ⟨rfl, rfl⟩)⟩
  | sSetMode k code =>
    refine ⟨_, rfl, .onSvf _ k fun n => ?_⟩
    split
    · exact .fault _ _
    · exact .svf n _ 0 (.inl ⟨rfl, rfl⟩)
  | sProcess k x =>
    exact ⟨_, rfl, .onSvf _ k fun n =>
      .svf n (svfProcess cfg (s.osc.svf.get n) x.toInt).1 _ (.inr (svfProcess_inRange cfg _ _))⟩
  | dacCode ch value =>
    refine ⟨_, rfl, .whenRunning ?_⟩
    split
    · exact .fault _ _
    · exact .respond _ _
  | dacSetOffset ch offset =>
    refine ⟨_, rfl, .whenRunning ?_⟩
    split
    · exact .fault _ _
    · exact .dacOffset _ offset 0
  | mRead8 a =>
    refine ⟨_, rfl, .whenRunning ?_⟩
    split
    · exact .fault _ _
    · exact .respond _ _
  | mWrite8 a data =>
    refine ⟨_, rfl, .whenRunning ?_⟩
    split
    · exact .fault _ _
    · next hn => exact .write8 _ data 0 (lt_of_address8 hn)
  | mRead16 a =>
    refine ⟨_, rfl, .whenRunning ?_⟩
    split
    · exact .fault _ _
    · exact .respond _ _
  | mWrite16 a data =>
    refine ⟨_, rfl, .whenRunning ?_⟩
    split
    · exact .fault _ _
    · next hn => exact .write16 _ data 0 (lt_of_address16 hn)
  | sysStatus sel =>
    refine ⟨_, rfl, ?_⟩
    unfold sysStatus
    split
    · exact .fault _ _
    · exact .respond _ _
  | sysReset => exact absurd rfl h

/-- What a step does: nothing with no command pending; the reset on the word of `sys.reset`; an effect of a command
on every other word, a fault or a refusal included. -/
theorem step_cases {s t : State} (h : step s = .next t) :
    (s.pending = [] ∧ t = s) ∨
    ∃ w rest, s.pending = w :: rest ∧
      ((w = encode .sysReset ∧ t = sysReset cfg { s with pending := rest }) ∨
        (w ≠ encode .sysReset ∧ Effect { s with pending := rest } t)) := by
  cases hp : s.pending with
  | nil =>
    rw [step, takeCommand_idle s hp] at h
    exact .inl ⟨rfl, (Host.Outcome.next.inj h).symm⟩
  | cons w rest =>
    refine .inr ⟨w, rest, rfl, ?_⟩
    cases hd : decode w with
    | ok i =>
      rw [stepRunsDecoded s w rest i hp hd] at h
      by_cases hi : i = .sysReset
      · subst hi
        exact .inl ⟨eq_resetWord_of_decode hd, (Host.Outcome.next.inj h).symm⟩
      · obtain ⟨t', ht, he⟩ := exec_effect i { s with pending := rest } hi
        cases ht.symm.trans h
        exact .inr ⟨fun hw => hi (Except.ok.inj (hd.symm.trans (hw ▸ decode_resetWord))), he⟩
    | error cause =>
      have hw : w ≠ encode .sysReset := by
        rintro rfl
        simp [decode_resetWord] at hd
      refine .inr ⟨hw, ?_⟩
      by_cases ha : s.halted = false ∨ acceptedHalted w = true
      · rw [step, takeCommand_illegal s w rest cause hp ha hd] at h
        cases h
        exact .fault cause w
      · obtain ⟨hh, ha⟩ : s.halted = true ∧ acceptedHalted w = false := by simpa using ha
        rw [step, takeCommand_halted s w rest hp hh ha] at h
        cases h
        exact .respond _ _

end Sys2Proof.Machine
end

section
/-! PROOFS. The status word: what an effect makes of it, and that FAULTED and the ring flags stay set
(10_state.md rule R34). -/

namespace Sys2Proof.Machine

/-! Frames of fault entry and of a channel's part of a command. -/

@[simp] theorem raiseFault_proc (cause : Cause) (word : Command) (s : State) (ch : Chan) :
    (raiseFault cause word s).proc ch = s.proc ch := by
  unfold raiseFault
  split <;> cases ch <;> rfl

@[simp] theorem raiseFault_osc (cause : Cause) (word : Command) (s : State) :
    (raiseFault cause word s).osc = s.osc := by
  unfold raiseFault
  split <;> rfl

@[simp] theorem raiseFault_hostPort (cause : Cause) (word : Command) (s : State) :
    (raiseFault cause word s).hostPort = s.hostPort := by
  unfold raiseFault
  split <;> rfl

@[simp] theorem State.withResult_osc {α : Type} (s : State) (ch : Chan) (r : ChannelResult α) :
    (s.withResult ch r).osc = s.osc := by
  simp [State.withResult]

@[simp] theorem State.withResult_hostPort {α : Type} (s : State) (ch : Chan) (r : ChannelResult α) :
    (s.withResult ch r).hostPort = s.hostPort := by
  simp [State.withResult]

@[simp] theorem State.withResult_status {α : Type} (s : State) (ch : Chan) (r : ChannelResult α) :
    (s.withResult ch r).sys.status = statusOnRing s.sys.status ch r.events := by
  simp [State.withResult]

/-! The status word. -/

/-- The status after an effect: the same, that of a fault entry, or that of ring events. -/
theorem Effect.status {s t : State} (h : Effect s t) :
    t.sys.status = s.sys.status ∨ (∃ cause, t.sys.status = statusOnFault s.sys.status cause) ∨
      ∃ ch events, t.sys.status = statusOnRing s.sys.status ch events := by
  cases h with
  | fault cause word =>
    unfold raiseFault
    split
    · exact .inl rfl
    · exact .inr (.inl ⟨cause, rfl⟩)
  | process ch ctrl => exact .inr (.inr ⟨ch, _, State.withResult_status s ch _⟩)
  | buffer ch => exact .inr (.inr ⟨ch, _, State.withResult_status s ch _⟩)
  | initChannel ch | configure ch => exact .inl (by simp)
  | _ => exact .inl rfl

/-- No effect clears FAULTED or a ring flag. -/
theorem Effect.keeps_sticky {s t : State} (h : Effect s t) {b : Nat} (hb : b = 0 ∨ (8 ≤ b ∧ b ≤ 15))
    (hs : s.sys.status.getLsbD b = true) : t.sys.status.getLsbD b = true := by
  obtain ht | ⟨cause, ht⟩ | ⟨ch, events, ht⟩ := h.status <;> rw [ht]
  · exact hs
  · rcases hb with rfl | hb
    · exact statusFaulted_onFault _ cause
    · rwa [getLsbD_onFault _ _ _ (by omega) (by omega)]
  · exact getLsbD_onRing_of_set _ _ _ _ hs

/-- Settles O12: only the reset clears a flag, and only the word of `sys.reset` is one. -/
theorem statusSticky : Obligations.StatusSticky := by
  intro s t h
  obtain ⟨hp, rfl⟩ | ⟨w, rest, hp, ⟨rfl, rfl⟩ | ⟨hw, he⟩⟩ := step_cases h
  · exact ⟨fun _ b _ hs => hs, fun rest hp' => by simp [hp] at hp'⟩
  · exact ⟨fun hn => absurd hp (hn rest), fun _ _ => rfl⟩
  · refine ⟨fun _ b hb hs => he.keeps_sticky hb hs, fun rest' hp' => ?_⟩
    exact absurd (List.cons.inj (hp.symm.trans hp')).1 hw

end Sys2Proof.Machine
end

section
/-! PROOFS. The block's invariant: each effect keeps every part of it (10_state.md rules R33, R34, R37, R38, R41 and
R42; 20_memory.md rule R82). -/

namespace Sys2Proof.Machine

open Sys2Proof.Config

/-! The status word. -/

theorem statusOk_zero : StatusOk 0 :=
  ⟨fun b _ => by simp, fun _ => by decide, fun h => by simp [statusFaulted] at h⟩

/-- A fault entry leaves a legal status word. -/
theorem StatusOk.onFault {st : U32} (h : StatusOk st) (cause : Cause) : StatusOk (statusOnFault st cause) := by
  obtain ⟨unlisted, -, -⟩ := h
  refine ⟨fun b hb => ?_, fun hf => ?_, fun _ => ?_⟩
  · rw [getLsbD_onFault _ _ _ (by omega) (by omega)]
    exact unlisted b hb
  · simp at hf
  · rw [statusCause_onFault]
    cases cause <;> decide

/-- Ring events leave a legal status word: a channel's flags are listed bits, and FAULTED and the cause stay. -/
theorem StatusOk.onRing {st : U32} (h : StatusOk st) (ch : Chan) (events : RingEvents) :
    StatusOk (statusOnRing st ch events) := by
  obtain ⟨unlisted, running, faulted⟩ := h
  have hbase : 8 ≤ ringFlagBase ch ∧ ringFlagBase ch ≤ 12 := by cases ch <;> decide
  refine ⟨fun b hb => ?_, by simpa using running, by simpa using faulted⟩
  rw [getLsbD_onRing_outside _ _ _ _ (by omega)]
  exact unlisted b hb

theorem Effect.statusOk {s t : State} (h : Effect s t) (hs : StatusOk s.sys.status) : StatusOk t.sys.status := by
  obtain ht | ⟨cause, ht⟩ | ⟨ch, events, ht⟩ := h.status <;> rw [ht]
  · exact hs
  · exact hs.onFault cause
  · exact hs.onRing ch events

/-! The channels. -/

/-- `p.process` leaves a channel's rings and pools in order: a single sample does not touch them, and otherwise one
ring is written and the other read. -/
theorem ChannelOk.process {c : Params} {p : Processor} (h : ChannelOk c p) (ctrl : U8) (d : Draws) :
    ChannelOk c (channelProcess c ctrl p d).p := by
  cases hb : p.function.buffered with
  | false =>
    have hsome := processSample_isSome c p ctrl d
    rw [hb] at hsome
    obtain ⟨⟨p', y, d'⟩, hp⟩ := Option.isSome_iff_exists.mp hsome
    rw [channelProcess_unbuffered hp]
    exact h.of_keeps (keepsChannel_processSample hp).1
  | true =>
    rw [channelProcess_buffered c p ctrl d hb]
    obtain ⟨hin, hout, hps, hpr⟩ := h
    exact ⟨hin.write ctrl, hout.read 0, hps, hpr⟩

/-- `p.buffer` leaves a channel's rings and pools in order: it does nothing, or it reads a block, runs the voice and
writes the block. -/
theorem ChannelOk.buffer {c : Params} {p : Processor} (h : ChannelOk c p) (d : Draws) :
    ChannelOk c (channelBuffer c p d).p := by
  by_cases hn : p.function.buffered = false ∨ p.outRing.writable c.ringCapacity < c.blockSize
  · rw [channelBuffer_nothing c p d hn]
    exact h
  · obtain ⟨hb, hw⟩ : p.function.buffered = true ∧ ¬ p.outRing.writable c.ringCapacity < c.blockSize := by
      simpa [not_or] using hn
    obtain ⟨p', ys, d', hf, heq⟩ := channelBuffer_block c p d hb hw
    obtain ⟨hin, hout, hps, hpr⟩ := h
    have hread : ChannelOk c { p with inRing := (p.inRing.readMany c.ringCapacity 0 c.blockSize).1 } :=
      ⟨hin.readMany 0 c.blockSize, hout, hps, hpr⟩
    obtain ⟨hin', -, hps', hpr'⟩ := hread.of_keeps (keepsChannel_fillBuffer hf).1
    rw [heq]
    exact ⟨hin', hout.writeMany ys, hps', hpr'⟩

/-- A property of both channels after one is replaced. -/
theorem State.proc_withProc_of {P : Processor → Prop} {s : State} (ch : Chan) {p : Processor} (hp : P p)
    (hs : ∀ ch', P (s.proc ch')) (ch' : Chan) : P ((s.withProc ch p).proc ch') := by
  by_cases hc : ch' = ch
  · subst hc
    rwa [State.proc_withProc]
  · rw [State.proc_withProc_ne s ch ch' p hc]
    exact hs ch'

/-- The same where the channel comes with its draws and ring events. -/
theorem State.proc_withResult_of {P : Processor → Prop} {α : Type} {s : State} (ch : Chan) {r : ChannelResult α}
    (hr : P r.p) (hs : ∀ ch', P (s.proc ch')) (ch' : Chan) : P ((s.withResult ch r).proc ch') := by
  simp only [State.withResult, State.proc_withStatus, State.proc_withDraws]
  exact State.proc_withProc_of ch hr hs ch'

theorem ringCapacity_pos {c : Params} (h : c.WellFormed) : 0 < c.ringCapacity := by
  have hb := h.block_pos
  have hr := h.ring_room
  omega

theorem Effect.channelOk {s t : State} (h : Effect s t) (hs : ∀ ch, ChannelOk cfg (s.proc ch)) (ch : Chan) :
    ChannelOk cfg (t.proc ch) := by
  cases h with
  | fault cause word =>
    rw [raiseFault_proc]
    exact hs ch
  | initChannel ch' =>
    rw [State.proc_ok]
    exact State.proc_withProc_of ch' (channelOk_init cfg (ringCapacity_pos cfg_wellFormed)) hs ch
  | configure ch' mode param p value keeps =>
    have hset : ChannelOk cfg { s.proc ch' with controlMode := mode, param := param } := hs ch'
    rw [State.proc_ok]
    exact State.proc_withProc_of ch' (hset.of_keeps keeps) hs ch
  | process ch' ctrl =>
    rw [State.proc_ok]
    exact State.proc_withResult_of ch' ((hs ch').process ctrl _) hs ch
  | buffer ch' =>
    rw [State.proc_ok]
    exact State.proc_withResult_of ch' ((hs ch').buffer _) hs ch
  | _ =>
    cases ch with
    | ch0 => exact hs .ch0
    | ch1 => exact hs .ch1

/-! The oscillator. -/

theorem oscillatorOk_init {c : Params} (h : c.WellFormed) : OscillatorOk c (oscInit c) := by
  refine ⟨h.shapes_pos, h.shapes_pos, List.length_replicate, List.length_replicate, fun k => ?_, fun k => ?_⟩
  · simp only [oscInit, Quad.get_same]
    decide
  · simp only [oscInit, Triple.get_same]
    exact svfInRange_init

theorem OscillatorOk.setExc {c : Params} {o : Oscillator} (h : OscillatorOk c o) (k : Fin 4) {e : Excitation}
    (he : e.counter ≤ (o.exc.get k).counter ∨ e.counter ≤ 65536) :
    OscillatorOk c { o with exc := o.exc.set k e } := by
  obtain ⟨shape, prevShape, union, scratch, exc, svf⟩ := h
  have he' : e.counter ≤ 65536 := he.elim (fun hle => hle.trans (exc k)) id
  exact ⟨shape, prevShape, union, scratch,
    Quad.get_set_of_all (P := fun e : Excitation => e.counter ≤ 65536) exc k he', svf⟩

theorem OscillatorOk.setSvf {c : Params} {o : Oscillator} (h : OscillatorOk c o) (k : Fin 3) {v : Svf}
    (hv : (v.lp = (o.svf.get k).lp ∧ v.bp = (o.svf.get k).bp) ∨ svfInRange v) :
    OscillatorOk c { o with svf := o.svf.set k v } := by
  obtain ⟨shape, prevShape, union, scratch, exc, svf⟩ := h
  have hv' : svfInRange v := by
    obtain ⟨hlp, hbp⟩ | hv := hv
    · rw [svfInRange, hlp, hbp]
      exact svf k
    · exact hv
  exact ⟨shape, prevShape, union, scratch, exc, Triple.get_set_of_all (P := svfInRange) svf k hv'⟩

theorem Effect.oscillatorOk {s t : State} (h : Effect s t) (hs : OscillatorOk cfg s.osc) : OscillatorOk cfg t.osc := by
  cases h with
  | initOsc => exact oscillatorOk_init cfg_wellFormed
  | oscRegisters shape pitch param strike value legal =>
    obtain ⟨hshape, rest⟩ := hs
    exact ⟨legal.elim (fun h => h ▸ hshape) id, rest⟩
  | render n => exact oscRender_ok cfg_wellFormed hs _ n _
  | excitation k e value free counter => exact hs.setExc k counter
  | svf k v value integrators => exact hs.setSvf k integrators
  | fault cause word =>
    rw [raiseFault_osc]
    exact hs
  | initChannel ch | configure ch | process ch | buffer ch => simpa using hs
  | _ => exact hs

/-! The memory. -/

/-- A render returns as many samples as it is asked for (47_oscillator.md rule R399). -/
@[simp] theorem oscRender_length (c : Params) (o : Oscillator) (sync : List U8) (n : Nat) (d : Draws) :
    (oscRender c o sync n d).2.1.length = n := by
  simp [oscRender]

theorem Effect.memoryOk {s t : State} (h : Effect s t) (hs : MemoryOk s.hostPort) : MemoryOk t.hostPort := by
  cases h with
  | render n value size =>
    have hfit : 0 + (oscRender cfg s.osc (s.hostPort.syncBytes n) n s.draws).2.1.length ≤ 256 := by simpa using size
    exact hs.writeOut 0 _ hfit
  | write8 a data value inside => exact hs.write a data inside
  | write16 a data value inside => exact hs.write16 a data inside
  | fault cause word =>
    rw [raiseFault_hostPort]
    exact hs
  | initChannel ch | configure ch | process ch | buffer ch => simpa using hs
  | _ => exact hs

/-! The invariant. -/

theorem Effect.inv {s t : State} (h : Effect s t) (hs : s.Inv cfg) : t.Inv cfg := by
  have hch : ∀ ch, ChannelOk cfg (t.proc ch) := h.channelOk fun
    | .ch0 => hs.ch0
    | .ch1 => hs.ch1
  exact ⟨h.statusOk hs.status, hch .ch0, hch .ch1, h.oscillatorOk hs.osc, h.memoryOk hs.memory⟩

/-- The block is in its invariant after reset. -/
theorem inv_reset : State.reset.Inv cfg :=
  have hch := channelOk_init cfg (ringCapacity_pos cfg_wellFormed)
  ⟨statusOk_zero, hch, hch, oscillatorOk_init cfg_wellFormed, reset_memoryOk⟩

/-- Settles O58: every effect keeps each part of the invariant, and `sys.reset` starts it afresh. -/
theorem stepKeepsInvariant : Obligations.StepKeepsInvariant := by
  intro s t hs h
  obtain ⟨-, rfl⟩ | ⟨w, rest, -, ⟨-, rfl⟩ | ⟨-, he⟩⟩ := step_cases h
  · exact hs
  · exact ⟨inv_reset.status, inv_reset.ch0, inv_reset.ch1, inv_reset.osc, inv_reset.memory⟩
  · exact he.inv ⟨hs.status, hs.ch0, hs.ch1, hs.osc, hs.memory⟩

end Sys2Proof.Machine
end

section
/-! PROOFS. The operand checks from the side of the operand: which value fails which check of 60_exceptions.md rule
R451, and that the command then makes the fault entry of rule R452. -/

namespace Sys2Proof.Machine

open Sys2Proof.Config

/-! Checks in order (rule R455). -/

theorem firstFailing_of_fails {passes : Bool} (h : passes = false) (cause : Cause) (rest : List (Bool × Cause)) :
    firstFailing ((passes, cause) :: rest) = some cause := by
  simp [firstFailing, h]

theorem firstFailing_of_passes {passes : Bool} (h : passes = true) (cause : Cause) (rest : List (Bool × Cause)) :
    firstFailing ((passes, cause) :: rest) = firstFailing rest := by
  simp [firstFailing, h]

/-! Commands that fail a check. -/

section
variable {i : Instr} {s : State}

/-- A command with an illegal operand answers with the fault entry for the cause of its first failing check. -/
theorem faults_of_operandFault {cause : Cause} (hs : s.halted = false) (h : i.operandFault cfg = some cause) :
    Faults i s cause :=
  ⟨_, exec_of_operandFault hs h, tookFault_raiseFault cause (encode i) s hs⟩

/-- SUB is checked before every other operand. -/
theorem faults_badIndex {sub : BitVec 4} {n : Nat} {rest : List (Bool × Cause)} (hs : s.halted = false)
    (hi : i.operandFault cfg = firstFailing (subBelow sub n :: rest)) (h : n ≤ sub.toNat) :
    Faults i s .badIndex :=
  faults_of_operandFault hs (hi.trans (firstFailing_of_fails (decide_eq_false (Nat.not_lt.mpr h)) _ _))

theorem faults_badEnum {code : U16} {n : Nat} (hs : s.halted = false)
    (hi : i.operandFault cfg = firstFailing [codeBelow code n]) (h : n ≤ code.toNat) : Faults i s .badEnum :=
  faults_of_operandFault hs (hi.trans (firstFailing_of_fails (decide_eq_false (Nat.not_lt.mpr h)) _ _))

/-- An 8-bit access outside SYNC_BUF and OUT_BUF (20_memory.md rule R83). -/
theorem faults_unmapped8 {a : U16} (hs : s.halted = false)
    (hi : i.operandFault cfg = firstFailing [addressMapped a.toNat]) (h : 768 ≤ a.toNat) :
    Faults i s .badAddress :=
  faults_of_operandFault hs (hi.trans (firstFailing_of_fails (decide_eq_false (Nat.not_lt.mpr h)) _ _))

/-- A 16-bit access one of whose bytes is unmapped, whatever its alignment (rule R83). -/
theorem faults_unmapped16 {a : U16} (hs : s.halted = false)
    (hi : i.operandFault cfg =
      firstFailing [addressMapped a.toNat, addressMapped (a.toNat + 1), addressEven a.toNat])
    (h : 767 ≤ a.toNat) : Faults i s .badAddress := by
  have second : ¬ a.toNat + 1 < 768 := by omega
  refine faults_of_operandFault hs (hi.trans ?_)
  by_cases first : a.toNat < 768
  · exact (firstFailing_of_passes (decide_eq_true first) _ _).trans
      (firstFailing_of_fails (decide_eq_false second) _ _)
  · exact firstFailing_of_fails (decide_eq_false first) _ _

/-- A 16-bit access to mapped bytes at an odd address (rule R85). -/
theorem faults_misaligned {a : U16} (hs : s.halted = false)
    (hi : i.operandFault cfg =
      firstFailing [addressMapped a.toNat, addressMapped (a.toNat + 1), addressEven a.toNat])
    (h : a.toNat < 767) (odd : a.toNat % 2 = 1) : Faults i s .misaligned := by
  have first : a.toNat < 768 := by omega
  have second : a.toNat + 1 < 768 := by omega
  have third : ¬ a.toNat % 2 = 0 := by omega
  exact faults_of_operandFault hs <| hi.trans <|
    (firstFailing_of_passes (decide_eq_true first) _ _).trans <|
    (firstFailing_of_passes (decide_eq_true second) _ _).trans <|
    firstFailing_of_fails (decide_eq_false third) _ _

/-- A render of no sample or of more than 256 (47_oscillator.md rule R399). -/
theorem oRender_faults {size : U16} (hs : s.halted = false) (h : size.toNat = 0 ∨ 256 < size.toNat) :
    Faults (.oRender size) s .badSize := by
  have illegal : ¬ (1 ≤ size.toNat ∧ size.toNat ≤ 256) := by omega
  exact faults_of_operandFault hs (firstFailing_of_fails (decide_eq_false illegal) _ _)

/-- `s.set_mode` checks its code once its Svf is legal. -/
theorem sSetMode_faults_badEnum {k : BitVec 4} {code : U16} (hs : s.halted = false) (hk : k.toNat < 3)
    (h : 4 ≤ code.toNat) : Faults (.sSetMode k code) s .badEnum :=
  faults_badEnum hs (firstFailing_of_passes (decide_eq_true hk) _ [codeBelow code 4]) h

end

/-- Settles O7: each command's row of rule R451's table is one of the checks above. -/
theorem operandFaults : Obligations.OperandFaults := by
  intro s hs
  refine ⟨fun _ _ => faults_badEnum hs rfl, fun _ _ _ => faults_badIndex hs rfl, fun _ _ => faults_badEnum hs rfl,
    fun _ _ => faults_badIndex hs rfl, fun _ => faults_badEnum hs rfl, fun _ => oRender_faults hs,
    fun _ => faults_badIndex hs rfl, fun k hk => ?excitations, fun k hk => ?svfs,
    fun _ _ => sSetMode_faults_badEnum hs, fun _ _ => faults_badIndex hs rfl, fun _ _ => faults_badIndex hs rfl,
    fun _ => faults_unmapped8 hs rfl, fun _ _ => faults_unmapped8 hs rfl, fun _ => faults_unmapped16 hs rfl,
    fun _ _ => faults_unmapped16 hs rfl, fun _ => faults_misaligned hs rfl, fun _ _ => faults_misaligned hs rfl,
    fun _ => faults_badIndex hs rfl⟩
  case excitations =>
    exact ⟨faults_badIndex hs rfl hk, faults_badIndex hs rfl hk, faults_badIndex hs rfl hk,
      fun _ => faults_badIndex hs rfl hk, fun _ => faults_badIndex hs rfl hk, fun _ => faults_badIndex hs rfl hk⟩
  case svfs =>
    exact ⟨faults_badIndex hs rfl hk, fun _ => faults_badIndex hs rfl hk, fun _ => faults_badIndex hs rfl hk,
      fun _ => faults_badIndex hs rfl hk, fun _ => faults_badIndex hs rfl hk, fun _ => faults_badIndex hs rfl hk⟩

end Sys2Proof.Machine
end

section
/-! PROOFS. `m.write8` on the host-port space (48_host_port.md rule R431). -/

namespace Sys2Proof.Machine

/-- `m.write8` at a mapped address. -/
theorem exec_mWrite8 {s : State} {a : U16} (hs : s.halted = false) (ha : a.toNat < 768) (data : U8) :
    exec (.mWrite8 a data) s = .next ((s.withHostPort (s.hostPort.write a.toNat data)).ok 0) := by
  simp only [exec, execMWrite8, mWrite8, whenRunning_running _ _ hs, address8_of_lt ha]

/-- Settles O19: the memory is the old one with one byte written, and no other unit is touched. -/
theorem hostWrite8 : Obligations.HostWrite8 := by
  intro s a data hs
  refine ⟨fun ha hwf => ⟨_, exec_mWrite8 hs ha data, rfl, ?written, fun b hb => ?others, ?canonical,
    ⟨rfl, rfl, rfl⟩, ⟨rfl, rfl⟩, rfl⟩, faults_unmapped8 hs rfl⟩
  case written => exact (Memory.read_write _ _ _ data hwf).trans (if_pos rfl)
  case others => exact Memory.read_write_other _ _ _ data hb
  case canonical => exact Memory.wf_write _ _ data hwf

end Sys2Proof.Machine
end

section
/-! PROOFS. `o.render`: the shape init, the run of the renderer and where its results go (47_oscillator.md rules R398
and R399). -/

namespace Sys2Proof.Machine

open Sys2Proof.Config

/-! The shape init. -/

/-- The shape init happens when the shape changed since the last render, and clears what belonged to the old one. -/
theorem shapeInit_eq (c : Params) (o : Oscillator) :
    shapeInit c o =
      if o.shape = o.prevShape then o
      else
        { o with
          union := List.replicate c.unionBytes 0, scratch := List.replicate c.scratchBytes 0
          exc := Quad.same ⟨0, 4093, 0, 0, 0⟩, svf := Triple.same ⟨0, 0, 0, 0, 0, .lp⟩
          phase := 0, prevShape := o.shape, firstRender := true } :=
  ite_not _ _ _

@[simp] theorem shapeInit_shape (c : Params) (o : Oscillator) : (shapeInit c o).shape = o.shape := by
  unfold shapeInit
  split <;> rfl

@[simp] theorem shapeInit_strike (c : Params) (o : Oscillator) : (shapeInit c o).strike = o.strike := by
  unfold shapeInit
  split <;> rfl

/-! The run of the renderer. -/

/-- What the renderer of the oscillator's shape returns, started after the shape init with the increment of the
pitch, and the units as its calls leave them. -/
def renderRun (c : Params) (o : Oscillator) (sync : List U8) (n : Nat) (d : Draws) : RenderOut × RenderUnits :=
  (c.renderShape o.shape (renderArgs (renderStart c o) sync n d.rng)).run
    (renderCall c) ⟨(shapeInit c o).exc, (shapeInit c o).svf, d.free⟩

/-- A render is one run of the renderer: the record, the samples and the draws are its results. -/
theorem oscRender_eq (c : Params) (o : Oscillator) (sync : List U8) (n : Nat) (d : Draws) :
    oscRender c o sync n d =
      ({ shapeInit c o with
         phaseInc := computePhaseIncrement c o.pitch
         phase := (renderRun c o sync n d).1.phase
         union := (renderRun c o sync n d).1.union
         exc := (renderRun c o sync n d).2.exc
         svf := (renderRun c o sync n d).2.svf
         scratch := (renderRun c o sync n d).1.scratch
         strike := if c.shapeUsesStrike o.shape then false else o.strike
         firstRender := false },
       (List.range n).map (renderRun c o sync n d).1.y,
       ⟨(renderRun c o sync n d).1.rng, (renderRun c o sync n d).2.free⟩) := by
  rw [renderRun, ← shapeInit_shape c o, ← shapeInit_strike c o]
  rfl

/-! The command. -/

/-- `o.render` of a legal size. -/
theorem exec_oRender {s : State} {size : U16} (hs : s.halted = false) (hlo : 1 ≤ size.toNat)
    (hhi : size.toNat ≤ 256) : exec (.oRender size) s = .next ((renderState cfg size.toNat s).ok 0) := by
  simp only [exec, execORender, oRender, whenRunning_running _ _ hs, renderSize_of_legal hlo hhi]

/-- The samples of a render are written to OUT_BUF from its start (20_memory.md rule R82). -/
theorem renderState_hostPort (c : Params) (n : Nat) (s : State) :
    (renderState c n s).hostPort =
      s.hostPort.writeOut 0 ((List.range n).map (renderRun c s.osc (s.hostPort.syncBytes n) n s.draws).1.y) := by
  show s.hostPort.writeOut 0 (oscRender c s.osc (s.hostPort.syncBytes n) n s.draws).2.1 = _
  rw [oscRender_eq]

/-- Settles O46: the run of the statement is that of the model, and each part of the next state is one of its
results or left as it was. -/
theorem oscRender_holds : Obligations.OscRender := by
  intro s size hs hlo hhi n o inc run out units
  have ho : shapeInit cfg s.osc = o := shapeInit_eq cfg s.osc
  have hrun : renderRun cfg s.osc (s.hostPort.syncBytes n) n s.draws = run := by
    rw [renderRun, renderStart, ho]
    rfl
  have hall := oscRender_eq cfg s.osc (s.hostPort.syncBytes n) n s.draws
  have hmem := renderState_hostPort cfg n s
  rw [hrun, ho] at hall
  rw [hrun] at hmem
  refine ⟨_, exec_oRender hs hlo hhi, rfl, ?osc, fun hwf i hi => ?written, fun a ha => ?others, ?system,
    ⟨rfl, rfl⟩, rfl, ?free⟩
  case osc => exact congrArg Prod.fst hall
  case written =>
    rw [State.ok_hostPort, hmem]
    have hlen : i < ((List.range n).map out.y).length := by simpa using hi
    have hword := Memory.read16_writeOut s.hostPort 0 i _ hwf hlen
    rw [Nat.zero_add] at hword
    exact hword.trans (by simp [hi])
  case others =>
    rw [State.ok_hostPort, hmem]
    exact Memory.read_writeOut_other _ 0 a _ (by simpa [outAddress] using ha)
  case system => exact congrArg (fun r => ({ s.sys with rng := r.2.2.rng } : System)) hall
  case free => exact congrArg (fun r => r.2.2.free) hall

end Sys2Proof.Machine
end

section
/-! PROOFS. The command word and its encoder: every command is read back from its word, and a word that decodes is
the word of its command (30_encoding.md rules R121 to R129). -/

namespace Sys2Proof

/-! From a command to its word and back. -/

open Laws.FieldsDecode in
/-- The decoder reads a command back from its fields. -/
theorem decodeFields_fieldsOfInstr (i : Instr) : decodeFields (fieldsOfInstr i) = .ok i :=
  match i with
  | .pInit ch => pInit ch
  | .pSetFunction ch code => pSetFunction ch code
  | .pSetParameter ch index value => pSetParameter ch index value
  | .pSetControlMode ch code => pSetControlMode ch code
  | .pProcess ch ctrl => pProcess ch ctrl
  | .pBuffer ch => pBuffer ch
  | .pRead ch sel => pRead ch sel
  | .oInit => oInit
  | .oSetShape code => oSetShape code
  | .oSetParameters p1 p2 => oSetParameters p1 p2
  | .oSetPitch pitch => oSetPitch pitch
  | .oStrike => oStrike
  | .oRender size => oRender size
  | .oRead sel => oRead sel
  | .eInit k => eInit k
  | .eSetDelay k delay => eSetDelay k delay
  | .eSetDecay k decay => eSetDecay k decay
  | .eTrigger k level => eTrigger k level
  | .eProcess k => eProcess k
  | .eDone k => eDone k
  | .sInit k => sInit k
  | .sSetFrequency k frequency => sSetFrequency k frequency
  | .sSetResonance k resonance => sSetResonance k resonance
  | .sSetPunch k punch => sSetPunch k punch
  | .sSetMode k code => sSetMode k code
  | .sProcess k x => sProcess k x
  | .dacCode ch value => dacCode ch value
  | .dacSetOffset ch offset => dacSetOffset ch offset
  | .mRead8 a => mRead8 a
  | .mWrite8 a data => mWrite8 a data
  | .mRead16 a => mRead16 a
  | .mWrite16 a data => mWrite16 a data
  | .sysStatus sel => sysStatus sel
  | .sysReset => sysReset

/-- Settles O1: a word's fields are those it was made of, and the decoder reads the command back from them. -/
theorem decodeEncode : Obligations.DecodeEncode := by
  intro i
  rw [decode, encode, fieldsOf_wordOf]
  exact decodeFields_fieldsOfInstr i

/-! The must-be-zero bits of a row. -/

theorem and_full16 (x : U16) : x &&& 65535#16 = x := BitVec.and_allOnes

theorem and_full4 (x : BitVec 4) : x &&& 15#4 = x := BitVec.and_allOnes

/-- The fields with the bits that are 1 in both. -/
def Fields.inter (f g : Fields) : Fields :=
  ⟨f.op &&& g.op, f.unit &&& g.unit, f.sub &&& g.sub, f.rsv &&& g.rsv, f.a &&& g.a, f.b &&& g.b⟩

/-- The fields of the bitwise AND of two words. -/
@[simp] theorem fieldsOf_and (w v : Command) : fieldsOf (w &&& v) = (fieldsOf w).inter (fieldsOf v) := by
  simp only [fieldsOf, Fields.inter, BitVec.extractLsb'_and]

/-- A word is 0 exactly if each of its fields is. -/
theorem eq_zero_iff_fieldsOf (w : Command) : w = 0 ↔ fieldsOf w = ⟨0, 0, 0, 0, 0, 0⟩ := by
  constructor
  · rintro rfl
    decide
  · intro h
    rw [← wordOf_fieldsOf w, h]
    decide

/-- The fields with a 1 in each must-be-zero bit of the row (rule R126). -/
def OpRow.zeroBits (r : OpRow) : Fields :=
  ⟨0, 0, if r.subUsed then 0 else 0xF, 0xFFFF, r.aZero, r.bZero⟩

/-- The decoder's check of the must-be-zero bits, field by field. -/
theorem reservedNonzero_eq_false_iff (r : OpRow) (f : Fields) :
    r.reservedNonzero f = false ↔
      f.rsv = 0 ∧ (r.subUsed = false → f.sub = 0) ∧ f.a &&& r.aZero = 0 ∧ f.b &&& r.bZero = 0 := by
  simp [OpRow.reservedNonzero, and_assoc]

/-- The decoder's check of the must-be-zero bits, as one AND of words. -/
theorem reservedNonzero_eq_false_iff_and (r : OpRow) (w : Command) :
    r.reservedNonzero (fieldsOf w) = false ↔ w &&& wordOf r.zeroBits = 0 := by
  rw [reservedNonzero_eq_false_iff, eq_zero_iff_fieldsOf]
  cases hu : r.subUsed
  · simp [Fields.inter, OpRow.zeroBits, hu, and_full16, and_full4, and_left_comm]
  · simp [Fields.inter, OpRow.zeroBits, hu, and_full16]

/-! A row's command keeps every bit of a word that is not a must-be-zero bit. -/

/-- UNIT of the command a row builds. -/
def UnitKind.written (u : UnitKind) (unit : BitVec 4) : BitVec 4 :=
  match u with
  | .channel => unitOfChan (chanOfUnit unit)
  | .oscillator => 2
  | .system => 3

/-- An allowed UNIT is written back as it was read. -/
theorem written_of_allows {u : UnitKind} {unit : BitVec 4} (h : u.allows unit = true) : u.written unit = unit := by
  cases u with
  | channel =>
    obtain rfl | rfl : unit = 0 ∨ unit = 1 := by simpa [UnitKind.allows] using h
    · rfl
    · rfl
  | oscillator => exact (by simpa [UnitKind.allows] using h : unit = 2).symm
  | system => exact (by simpa [UnitKind.allows] using h : unit = 3).symm

/-- A control byte is the bits of its field that need not be 0. -/
theorem extend_control (x : U16) : (x.extractLsb' 0 3).zeroExtend 16 = x &&& 7#16 := by
  apply BitVec.eq_of_toNat_eq
  simp [Nat.and_two_pow_sub_one_eq_mod _ 3]
  omega

/-- A data byte is the bits of its field that need not be 0. -/
theorem extend_data (x : U16) : (x.extractLsb' 0 8).zeroExtend 16 = x &&& 255#16 := by
  apply BitVec.eq_of_toNat_eq
  simp [Nat.and_two_pow_sub_one_eq_mod _ 8]
  omega

/-- The halves of a level made of two fields. -/
theorem high_of_level (a b : U16) : (a ++ b : S32).extractLsb' 16 16 = a := BitVec.extractLsb'_append_eq_left

theorem low_of_level (a b : U16) : (a ++ b : S32).extractLsb' 0 16 = b := BitVec.extractLsb'_append_eq_right

/-- Clearing bits that are not set changes nothing. -/
theorem and_not_of_and_eq_zero {n : Nat} {x z : BitVec n} (h : x &&& z = 0) : x &&& ~~~z = x :=
  calc x &&& ~~~z = x &&& z ||| x &&& ~~~z := by simp [h]
    _ = x := by rw [← BitVec.and_or_distrib_left]; simp

/-- The fields of the command a row builds are those of the word with its must-be-zero bits cleared. -/
theorem fieldsOfInstr_build {op : U8} {r : OpRow} (h : opRow op = some r) (f : Fields) :
    fieldsOfInstr (r.build f) =
      ⟨op, r.unit.written f.unit, if r.subUsed then f.sub else 0, 0, f.a &&& ~~~r.aZero, f.b &&& ~~~r.bZero⟩ := by
  have hop := op_of_opRow h f
  unfold opRow at h
  split at h <;> cases h <;> subst hop
  all_goals simp [fieldsOfInstr, UnitKind.written, and_full16, extend_control, extend_data, high_of_level, low_of_level]

/-- The fields of a word that decodes are those of its command. -/
theorem fieldsOfInstr_of_decodeFields {f : Fields} {i : Instr} (h : decodeFields f = .ok i) : fieldsOfInstr i = f := by
  obtain ⟨r, hr, hunit, hzero, rfl⟩ := row_of_decodeFields h
  obtain ⟨hrsv, hsub, ha, hb⟩ := (reservedNonzero_eq_false_iff r f).mp hzero
  rw [fieldsOfInstr_build hr, written_of_allows hunit, and_not_of_and_eq_zero ha, and_not_of_and_eq_zero hb, ← hrsv]
  cases hu : r.subUsed
  · rw [← hsub hu]
    rfl
  · rfl

/-- Settles O2: the command has the fields of the word, and a word is made of its fields. -/
theorem encodeDecode : Obligations.EncodeDecode := by
  intro w i h
  rw [encode, fieldsOfInstr_of_decodeFields h, wordOf_fieldsOf]

end Sys2Proof
end

section
/-! PROOFS. The opcode map's columns and the words they exclude (30_encoding.md rules R122, R123 and R126;
60_exceptions.md rule R455). -/

namespace Sys2Proof.Machine

/-! The rows of the map, against its columns. -/

/-- The OPs with a row are the assigned ones. -/
theorem opRow_eq_none_iff (op : U8) : opRow op = none ↔ op.toNat ∉ assignedOps := by
  have table : ∀ op : U8, (opRow op).isNone = decide (op.toNat ∉ assignedOps) := by decide
  rw [← Option.isNone_iff_eq_none, table, decide_eq_true_iff]

theorem allows_channel : ∀ unit, UnitKind.channel.allows unit = decide (unit.toNat < 2) := by decide

theorem allows_oscillator : ∀ unit, UnitKind.oscillator.allows unit = (unit.toNat == 2) := by decide

theorem allows_system : ∀ unit, UnitKind.system.allows unit = (unit.toNat == 3) := by decide

/-- A row allows the units of its column. -/
theorem allows_of_opRow {op : U8} {r : OpRow} (h : opRow op = some r) (unit : BitVec 4) :
    r.unit.allows unit = unitAllowed op.toNat unit.toNat := by
  unfold opRow at h
  split at h <;> cases h
  all_goals
    rw [‹op.toNat = _›]
    simp [unitAllowed, allows_channel, allows_oscillator, allows_system]

/-- A row's must-be-zero bits are those of its columns. -/
theorem zeroBits_of_opRow {op : U8} {r : OpRow} (h : opRow op = some r) :
    wordOf r.zeroBits = mustBeZero op.toNat := by
  unfold opRow at h
  split at h <;> cases h
  all_goals
    rw [‹op.toNat = _›]
    decide

/-! The decoder's checks, in order. -/

theorem decodeFields_noRow {f : Fields} (h : opRow f.op = none) : decodeFields f = .error .illegalOpcode := by
  simp [decodeFields, h]

theorem decodeFields_badUnit {f : Fields} {r : OpRow} (h : opRow f.op = some r) (hu : r.unit.allows f.unit = false) :
    decodeFields f = .error .badUnit := by
  simp [decodeFields, h, hu]

theorem decodeFields_reserved {f : Fields} {r : OpRow} (h : opRow f.op = some r)
    (hu : r.unit.allows f.unit = true) (hz : r.reservedNonzero f = true) :
    decodeFields f = .error .reservedNonzero := by
  simp [decodeFields, h, hu, hz]

/-- Settles O3: each check of the decoder is one of the map's columns, and exactly one of the four outcomes holds. -/
theorem decodeRejections : Obligations.DecodeRejections := by
  intro w op unit
  cases hr : opRow (fieldsOf w).op with
  | none =>
    have hop : op ∉ assignedOps := (opRow_eq_none_iff _).mp hr
    have hd : decode w = .error .illegalOpcode := decodeFields_noRow hr
    simp [hop, hd]
  | some r =>
    have hop : op ∈ assignedOps := by
      by_contra hn
      have hnone : opRow (fieldsOf w).op = none := (opRow_eq_none_iff _).mpr hn
      simp [hnone] at hr
    have hunit : r.unit.allows (fieldsOf w).unit = unitAllowed op unit := allows_of_opRow hr _
    have hzero : r.reservedNonzero (fieldsOf w) = false ↔ w &&& mustBeZero op = 0#64 :=
      zeroBits_of_opRow hr ▸ reservedNonzero_eq_false_iff_and r w
    cases hu : unitAllowed op unit with
    | false =>
      have hd : decode w = .error .badUnit := decodeFields_badUnit hr (hunit.trans hu)
      simp [hop, hd]
    | true =>
      cases hz : r.reservedNonzero (fieldsOf w) with
      | true =>
        have hd : decode w = .error .reservedNonzero := decodeFields_reserved hr (hunit.trans hu) hz
        have hw : ¬ w &&& mustBeZero op = 0#64 := by simp [← hzero, hz]
        simp [hop, hd, hw]
      | false =>
        have hd : decode w = .ok (r.build (fieldsOf w)) :=
          Laws.FieldsDecode.decodeFields_row _ _ hr (hunit.trans hu) hz
        have hw : w &&& mustBeZero op = 0#64 := hzero.mp hz
        simp [hop, hd, hw]

/-- Settles O4: the decoder evaluates on each of the words. -/
theorem specWords : Obligations.SpecWords := by
  unfold Obligations.SpecWords
  decide

end Sys2Proof.Machine
end

section
/-! PROOFS. Table interpolation (40_fixedpoint.md rules R165 and R166): both forms are one flooring step from an
entry towards the next. -/

namespace Sys2Proof.Machine

/-- The step both interpolations take from the entry `a` towards the entry `b`, of `frac / 2 ^ n` of the way. -/
def lerp (a b : Int) (frac n : Nat) : Int := a + (((b - a) * frac) >>> n)

@[simp] theorem lerp_zero (a b : Int) (n : Nat) : lerp a b 0 n = a := by simp [lerp]

/-- The flooring shift of `d * frac` is monotone in the product, which lies between 0 and `d * 2 ^ n`. -/
theorem shiftRight_mul_between (d : Int) {frac n : Nat} (h : frac ≤ 2 ^ n) :
    min 0 d ≤ (d * frac) >>> n ∧ (d * frac) >>> n ≤ max 0 d := by
  have hpos : (0 : Int) < (2 ^ n : Nat) := Int.natCast_pos.mpr n.two_pow_pos
  have hfrac : (frac : Int) ≤ (2 ^ n : Nat) := Int.ofNat_le.mpr h
  have hwhole : d * (2 ^ n : Nat) / (2 ^ n : Nat) = d := Int.mul_ediv_cancel _ hpos.ne'
  rw [Int.shiftRight_eq_div_pow]
  rcases le_total 0 d with hd | hd
  · rw [min_eq_left hd, max_eq_right hd]
    exact ⟨Int.ediv_nonneg (mul_nonneg hd frac.cast_nonneg) hpos.le,
      (Int.ediv_le_ediv hpos (mul_le_mul_of_nonneg_left hfrac hd)).trans_eq hwhole⟩
  · rw [min_eq_right hd, max_eq_left hd]
    exact ⟨hwhole.symm.trans_le (Int.ediv_le_ediv hpos (mul_le_mul_of_nonpos_left hfrac hd)),
      Int.ediv_nonpos_of_nonpos_of_neg (mul_nonpos_of_nonpos_of_nonneg hd frac.cast_nonneg) hpos⟩

/-- A step of at most the whole way stays between the two entries. -/
theorem lerp_between (a b : Int) {frac n : Nat} (h : frac ≤ 2 ^ n) :
    min a b ≤ lerp a b frac n ∧ lerp a b frac n ≤ max a b := by
  obtain ⟨hlo, hhi⟩ := shiftRight_mul_between (b - a) h
  unfold lerp
  omega

theorem interpolate88_eq_lerp (t : List S16) (x : U16) : interpolate88 t x =
    lerp (tableAt t (x.toNat / 256)) (tableAt t (x.toNat / 256 + 1)) (x.toNat % 256) 8 := by
  rw [interpolate88, Nat.shiftRight_eq_div_pow]
  rfl

/-- The top `bits` of the 24 fraction bits of a position. -/
def fraction824 (bits : Nat) (p : U32) : Nat := (p.toNat % 2 ^ 24) >>> (24 - bits)

theorem interpolate824_eq_lerp (bits : Nat) (t : List S16) (p : U32) : interpolate824 bits t p =
    lerp (tableAt t (p.toNat / 2 ^ 24)) (tableAt t (p.toNat / 2 ^ 24 + 1)) (fraction824 bits p) bits := by
  rw [interpolate824, Nat.shiftRight_eq_div_pow]
  rfl

theorem fraction824_lt {bits : Nat} (h : bits ≤ 24) (p : U32) : fraction824 bits p < 2 ^ bits := by
  have hsplit : 2 ^ (24 - bits) * 2 ^ bits = 2 ^ 24 := by rw [← pow_add, Nat.sub_add_cancel h]
  rw [fraction824, Nat.shiftRight_eq_div_pow]
  exact Nat.div_lt_of_lt_mul (hsplit.symm ▸ Nat.mod_lt p.toNat (Nat.two_pow_pos 24))

theorem fraction824_eq_zero {p : U32} (h : p.toNat % 2 ^ 24 = 0) (bits : Nat) : fraction824 bits p = 0 := by
  rw [fraction824, h, Nat.zero_shiftRight]

/-- Settles O56: each interpolation is a step of less than the whole way, and of none of it at a fraction of 0. -/
theorem interpolationBetween : Obligations.InterpolationBetween := by
  unfold Obligations.InterpolationBetween
  refine fun t => ⟨fun x => ?_, fun bits p _ hbits => ?_⟩
  · rw [interpolate88_eq_lerp]
    obtain ⟨hlo, hhi⟩ := lerp_between (tableAt t (x.toNat / 256)) (tableAt t (x.toNat / 256 + 1))
      (Nat.mod_lt x.toNat (y := 2 ^ 8) (by decide)).le
    exact ⟨hlo, hhi, fun h => by rw [h, lerp_zero]⟩
  · rw [interpolate824_eq_lerp]
    obtain ⟨hlo, hhi⟩ := lerp_between (tableAt t (p.toNat / 2 ^ 24)) (tableAt t (p.toNat / 2 ^ 24 + 1))
      (fraction824_lt hbits p).le
    exact ⟨hlo, hhi, fun h => by rw [fraction824_eq_zero h, lerp_zero]⟩

end Sys2Proof.Machine
end

section
/-! PROOFS. The Excitation record and the six `e.*` commands (41_excitation.md rules R191 to R200): the arithmetic of
one process, then what each command leaves. -/

namespace Sys2Proof.Machine

open Sys2Proof.Config

/-! The arithmetic of rule R195 in the range of rule R200. -/

theorem excInRange_iff {e : Excitation} : excInRange e = true ↔
    e.state.toNat * e.decay.toNat < 2 ^ 31 ∧ e.state.toNat + e.level.toInt.natAbs < 2 ^ 31 ∧
      e.level.toInt ≠ -2 ^ 31 := decide_eq_true_iff

theorem excDecayed_eq_div (e : Excitation) : excDecayed e = e.state.toNat * e.decay.toNat / 4096 :=
  Nat.shiftRight_eq_div_pow _ 12

theorem excDecayed_le_state {e : Excitation} (h : e.decay.toNat ≤ 4096) : excDecayed e ≤ e.state.toNat := by
  rw [excDecayed_eq_div]
  exact Nat.div_le_of_le_mul (Nat.mul_comm 4096 _ ▸ Nat.mul_le_mul_left _ h)

theorem excDecayed_lt_state {e : Excitation} (h : e.decay.toNat ≤ 4095) (hpos : 0 < e.state.toNat) :
    excDecayed e < e.state.toNat := by
  rw [excDecayed_eq_div]
  exact Nat.div_lt_of_lt_mul (Nat.mul_comm 4096 _ ▸ Nat.mul_lt_mul_of_pos_left (by omega) hpos)

/-- The impulse is injected on the process that ends the countdown. -/
theorem excNextState_injects {e : Excitation} (h : e.counter = 1) :
    excNextState e = excDecayed e + e.level.toInt.natAbs := if_pos h

/-- On every other process the state only decays. -/
theorem excNextState_decays {e : Excitation} (h : e.counter ≠ 1) : excNextState e = excDecayed e := if_neg h

/-- Rule R200's remark, but for an injection on a state that a decay above 4096 has raised. -/
theorem excNextState_lt_of_inRange {e : Excitation} (h : excInRange e = true)
    (hc : e.counter ≠ 1 ∨ e.decay.toNat ≤ 4096) : excNextState e < 2 ^ 31 := by
  obtain ⟨hdecay, hlevel, -⟩ := excInRange_iff.mp h
  by_cases hone : e.counter = 1
  · have hle : excDecayed e ≤ e.state.toNat := excDecayed_le_state (hc.resolve_left (not_not_intro hone))
    rw [excNextState_injects hone]
    omega
  · rw [excNextState_decays hone, excDecayed_eq_div]
    exact (Nat.div_le_self _ _).trans_lt hdecay

/-- The range asks no more of a smaller state. -/
theorem excInRange_of_state_le {e e' : Excitation} (h : excInRange e = true) (hstate : e'.state.toNat ≤ e.state.toNat)
    (hdecay : e'.decay = e.decay) (hlevel : e'.level = e.level) : excInRange e' = true := by
  obtain ⟨hd, hl, hmin⟩ := excInRange_iff.mp h
  rw [excInRange_iff, hdecay, hlevel]
  exact ⟨(Nat.mul_le_mul_right _ hstate).trans_lt hd, by omega, hmin⟩

/-- A process writes the counter and the state alone. -/
theorem excProcess_fst (c : Params) (e : Excitation) (free : Nat) :
    (excProcess c e free).1 = { e with counter := e.counter - 1, state := (excProcess c e free).1.state } := by
  unfold excProcess
  split <;> rfl

/-- Settles O25: with no countdown left the new state is the decayed one, which is no larger than the state. -/
theorem excDecay : Obligations.ExcDecay := by
  intro c e free hdecay hcounter hrange
  have hnext : excNextState e = excDecayed e := excNextState_decays (by omega)
  have hlt : excNextState e < 2 ^ 31 := excNextState_lt_of_inRange hrange (.inl (by omega))
  have hstate : (excProcess c e free).1.state.toNat = excDecayed e :=
    (excProcess_state_of_inRange hrange).trans hnext
  have hle : excDecayed e ≤ e.state.toNat := excDecayed_le_state (by omega)
  refine ⟨hstate.trans (excDecayed_eq_div e), fun hpos => ?falls, fun hzero => ?rests, ?value,
    excProcess_level c e free, excProcess_decay c e free, ?counter, ?range⟩
  case falls => exact hstate.trans_lt (excDecayed_lt_state hdecay hpos)
  case rests => omega
  case value =>
    rw [hstate, ← hnext]
    exact (excProcess_of_inRange hrange hlt).1
  case counter => rw [excProcess_counter, hcounter]
  case range =>
    exact excInRange_of_state_le hrange (hstate.trans_le hle) (excProcess_decay c e free) (excProcess_level c e free)

/-! Runs of processes. -/

theorem excRun_succ (c : Params) (n : Nat) (e : Excitation) (free : Nat) :
    (excRun c (n + 1) e free).1 = (excProcess c (excRun c n e free).1 (excRun c n e free).2).1 := rfl

@[simp] theorem excRun_counter (c : Params) (n : Nat) (e : Excitation) (free : Nat) :
    (excRun c n e free).1.counter = e.counter - n := by
  induction n with
  | zero => rfl
  | succ n ih => rw [excRun_succ, excProcess_counter, ih, Nat.sub_sub]

@[simp] theorem excRun_level (c : Params) (n : Nat) (e : Excitation) (free : Nat) :
    (excRun c n e free).1.level = e.level := by
  induction n with
  | zero => rfl
  | succ n ih => rw [excRun_succ, excProcess_level, ih]

theorem excDone_iff {e : Excitation} : excDone e = true ↔ e.counter = 0 := beq_iff_eq

/-- Settles O26: `n` processes after a trigger the counter is `delay + 1 - n`. -/
theorem excDoneTiming : Obligations.ExcDoneTiming := by
  intro c e level free n
  have hcounter : (excRun c n (excTrigger e level) free).1.counter = e.delay.toNat + 1 - n := excRun_counter ..
  have hlevel : (excRun c n (excTrigger e level) free).1.level = level := excRun_level ..
  refine ⟨?done, fun h => ?injects, fun h => ?decays⟩
  case done => rw [excDone_iff, hcounter, Nat.sub_eq_zero_iff_le]
  case injects => rw [excNextState_injects (by omega), hlevel]
  case decays => exact excNextState_decays (by omega)

/-! The commands on a legal instance. -/

section
variable {s : State} {sub : BitVec 4} {k : Fin 4}

theorem onExc_of_legal (hs : s.halted = false) (hk : sub.toNat = k.val) (i : Instr) (effect : Fin 4 → State) :
    onExc i sub s effect = effect k := by
  simp only [onExc, whenRunning_running _ _ hs, excIndex_of_lt hk]

theorem exec_eInit (hs : s.halted = false) (hk : sub.toNat = k.val) :
    exec (.eInit sub) s = .next ((s.withExc k excInit).ok 0) :=
  congrArg Host.Outcome.next (onExc_of_legal hs hk _ _)

theorem exec_eSetDelay (hs : s.halted = false) (hk : sub.toNat = k.val) (d : U16) :
    exec (.eSetDelay sub d) s = .next ((s.withExc k (excSetDelay (s.osc.exc.get k) d)).ok 0) :=
  congrArg Host.Outcome.next (onExc_of_legal hs hk _ _)

theorem exec_eSetDecay (hs : s.halted = false) (hk : sub.toNat = k.val) (d : U16) :
    exec (.eSetDecay sub d) s = .next ((s.withExc k (excSetDecay (s.osc.exc.get k) d)).ok 0) :=
  congrArg Host.Outcome.next (onExc_of_legal hs hk _ _)

theorem exec_eTrigger (hs : s.halted = false) (hk : sub.toNat = k.val) (level : S32) :
    exec (.eTrigger sub level) s = .next ((s.withExc k (excTrigger (s.osc.exc.get k) level)).ok 0) :=
  congrArg Host.Outcome.next (onExc_of_legal hs hk _ _)

theorem exec_eDone (hs : s.halted = false) (hk : sub.toNat = k.val) :
    exec (.eDone sub) s = .next (s.ok (flag32 (excDone (s.osc.exc.get k)))) :=
  congrArg Host.Outcome.next (onExc_of_legal hs hk _ _)

theorem exec_eProcess (hs : s.halted = false) (hk : sub.toNat = k.val) :
    exec (.eProcess sub) s = .next
      { (s.withExc k (excProcess cfg (s.osc.exc.get k) s.freeCount).1).ok
          (excProcess cfg (s.osc.exc.get k) s.freeCount).2.1 with
        freeCount := (excProcess cfg (s.osc.exc.get k) s.freeCount).2.2 } :=
  congrArg Host.Outcome.next (onExc_of_legal hs hk _ _)

end

/-! What replacing one Excitation leaves. -/

/-- A response with Excitation `k` replaced touches nothing else. -/
theorem onlyExcitation_withExc (s : State) (k : Fin 4) (e : Excitation) (value : U32) :
    OnlyExcitation k e s ((s.withExc k e).ok value) :=
  ⟨⟨⟨rfl, rfl, rfl⟩, ⟨rfl, rfl⟩, fun _ => rfl⟩, rfl, Quad.get_set_self _ _ _, fun _ h => Quad.get_set_ne _ _ _ _ h⟩

/-- Settles O21: each setter answers 0 with the one Excitation replaced. -/
theorem excSetters : Obligations.ExcSetters := by
  intro s sub k hs hk
  exact ⟨⟨_, exec_eInit hs hk, rfl, onlyExcitation_withExc s k _ 0⟩,
    fun d => ⟨_, exec_eSetDelay hs hk d, rfl, onlyExcitation_withExc s k _ 0⟩,
    fun d => ⟨_, exec_eSetDecay hs hk d, rfl, onlyExcitation_withExc s k _ 0⟩,
    fun level => ⟨_, exec_eTrigger hs hk level, rfl, onlyExcitation_withExc s k _ 0⟩⟩

theorem flag32_excDone (e : Excitation) : flag32 (excDone e) = if e.counter = 0 then 1 else 0 := by
  simp only [flag32, excDone_iff]

/-- Settles O24: the answer is the test of the counter, and no unit is touched. -/
theorem excDone_holds : Obligations.ExcDone := by
  intro s sub hs
  refine ⟨fun k hk => ⟨_, exec_eDone hs hk, ⟨⟨rfl, rfl, rfl⟩, ⟨rfl, rfl⟩, rfl, fun _ => rfl⟩, ?_⟩,
    faults_badIndex hs rfl⟩
  exact congrArg (Response.mk .ok) (flag32_excDone _)

/-! `e.process`. -/

/-- `e.process` on Excitation `k`, inside the range of rule R200 or not: the record, the value and the free index
are those of one `Exc_Process`, and all else is unchanged. -/
theorem eProcess_effect {s : State} {sub : BitVec 4} {k : Fin 4} (hs : s.halted = false) (hk : sub.toNat = k.val) :
    ∃ t, exec (.eProcess sub) s = .next t ∧
      (t.osc.exc.get k, t.response.value, t.freeCount) = excProcess cfg (s.osc.exc.get k) s.freeCount ∧
      t.response.kind = .ok ∧ (∀ j, j ≠ k → t.osc.exc.get j = s.osc.exc.get j) ∧
      t.osc = { s.osc with exc := t.osc.exc } ∧ t.sys = s.sys ∧ SameChannels s t ∧ SameMemory s t ∧
      t.pending = s.pending := by
  refine ⟨_, exec_eProcess hs hk, Prod.ext ?_ rfl, rfl, fun j hj => ?_, rfl, rfl, ⟨rfl, rfl⟩, fun _ => rfl, rfl⟩
  · exact Quad.get_set_self _ _ _
  · exact Quad.get_set_ne _ _ _ _ hj

/-- Settles O22: the process is that of rule R195, whose new state and value the range of rule R200 fixes. -/
theorem excProcess_holds : Obligations.ExcProcess := by
  intro s sub k hs hk e decayed hdecay hlevel hmin
  have hrange : excInRange e = true := excInRange_iff.mpr ⟨hdecay, hlevel, hmin⟩
  obtain ⟨t, ht, hp, hkind, hothers, hosc, hsys, hchannels, hmemory, hpending⟩ := eProcess_effect hs hk
  obtain ⟨hrec, hval, hfree⟩ : t.osc.exc.get k = (excProcess cfg e s.freeCount).1 ∧
      t.response.value = (excProcess cfg e s.freeCount).2.1 ∧ t.freeCount = (excProcess cfg e s.freeCount).2.2 := by
    simpa only [Prod.ext_iff] using hp
  have hstate : (t.osc.exc.get k).state.toNat = excNextState e := hrec ▸ excProcess_state_of_inRange hrange
  have hdecayed : excDecayed e = decayed := excDecayed_eq_div e
  refine ⟨t, ht, ?counter, ?state, ?fields, hothers, hosc, hsys, hchannels, hmemory, hpending, hkind,
    fun hc => ?below, fun hlt => ?value⟩
  case counter => rw [hrec, excProcess_counter]
  case state => rw [hstate, ← hdecayed, excNextState]
  case fields =>
    rw [hrec, excProcess_counter]
    exact excProcess_fst _ _ _
  case below => exact hstate.trans_lt (excNextState_lt_of_inRange hrange hc)
  case value =>
    rw [hstate] at hlt ⊢
    obtain ⟨hvalue, hdrawn⟩ := excProcess_of_inRange (c := cfg) (free := s.freeCount) hrange hlt
    exact ⟨hfree.trans hdrawn, hval ▸ hvalue⟩

/-- Settles O23: the countdown and the frame of `e.process` do not depend on the range. -/
theorem excProcessBeyond : Obligations.ExcProcessBeyond := by
  intro s sub k hs hk e _
  obtain ⟨t, ht, hp, hkind, frame⟩ := eProcess_effect hs hk
  have hrec : t.osc.exc.get k = (excProcess cfg e s.freeCount).1 := congrArg Prod.fst hp
  exact ⟨t, ht, hkind, by rw [hrec]; exact excProcess_fst _ _ _, frame⟩

end Sys2Proof.Machine
end

section
/-! PROOFS. The Svf record and the six `s.*` commands (42_svf.md rules R211 to R218): the stages and the tap of one
process, runs of processes, then what each command leaves. -/

namespace Sys2Proof.Machine

open Sys2Proof.Config

/-! One process (rule R216): every stage is clipped, so registers of 32 and 16 bits store it exactly. -/

/-- The stages of a process of record `v`, as integers before they are stored: high-pass, band-pass, low-pass. -/
def svfRecordStages (c : Params) (v : Svf) (x : Int) : Int × Int × Int :=
  let coef := c.svfCoef v.frequency v.resonance v.punch v.lp v.bp
  svfStages c.svfShift coef.1.toNat coef.2.toNat x v.lp.toInt v.bp.toInt

/-- The tap of a process of record `v`, as an integer before it is stored. -/
def svfRecordTap (c : Params) (v : Svf) (x : Int) : Int :=
  let stages := svfRecordStages c v x
  svfTap v.mode stages.1 stages.2.1 stages.2.2

/-- A process writes the two integrators alone. -/
theorem svfProcess_fst (c : Params) (v : Svf) (x : Int) :
    (svfProcess c v x).1 = { v with bp := (svfProcess c v x).1.bp, lp := (svfProcess c v x).1.lp } := rfl

theorem svfProcess_bp (c : Params) (v : Svf) (x : Int) :
    (svfProcess c v x).1.bp.toInt = (svfRecordStages c v x).2.1 := toInt_ofInt_clip16_s32 _

theorem svfProcess_lp (c : Params) (v : Svf) (x : Int) :
    (svfProcess c v x).1.lp.toInt = (svfRecordStages c v x).2.2 := toInt_ofInt_clip16_s32 _

/-- Each tap is a stage or the clipped difference of two. -/
theorem svfRecordTap_range (c : Params) (v : Svf) (x : Int) :
    -32768 ≤ svfRecordTap c v x ∧ svfRecordTap c v x ≤ 32767 := by
  unfold svfRecordTap svfTap
  cases v.mode with
  | lp | bp | hp | peak => exact clip16_range _

theorem svfProcess_value (c : Params) (v : Svf) (x : Int) :
    (svfProcess c v x).2.toInt = svfRecordTap c v x :=
  toInt_ofInt_s16 (svfRecordTap_range c v x).1 (svfRecordTap_range c v x).2

/-! Runs of processes (rule R218). -/

theorem svfRun_length (c : Params) (v : Svf) (xs : List S16) : (svfRun c v xs).2.length = xs.length := by
  induction xs generalizing v with
  | nil => rfl
  | cons x rest ih => exact congrArg Nat.succ (ih _)

theorem svfRun_keeps_inRange (c : Params) {v : Svf} (xs : List S16) (h : svfInRange v) :
    svfInRange (svfRun c v xs).1 := by
  induction xs generalizing v with
  | nil => exact h
  | cons x rest ih => exact ih (svfProcess_inRange c v x.toInt)

/-- The first process brings any record into the range, and the rest of the run keeps it there. -/
theorem svfRun_inRange (c : Params) {v : Svf} {xs : List S16} (h : xs ≠ [] ∨ svfInRange v) :
    svfInRange (svfRun c v xs).1 := by
  cases xs with
  | nil => exact h.resolve_left (not_not_intro rfl)
  | cons x rest => exact svfRun_keeps_inRange c rest (svfProcess_inRange c v x.toInt)

/-- One more input adds the value of one more process, of the record the run has left. -/
theorem svfRun_snoc_values (c : Params) (v : Svf) (xs : List S16) (x : S16) :
    (svfRun c v (xs ++ [x])).2 = (svfRun c v xs).2 ++ [(svfProcess c (svfRun c v xs).1 x.toInt).2] := by
  induction xs generalizing v with
  | nil => rfl
  | cons y rest ih => exact congrArg ((svfProcess c v y.toInt).2 :: ·) (ih _)

/-- Settles O29: a run keeps the range that one process gives, and the tap is in the range of the register that
stores it. -/
theorem svfSaturation : Obligations.SvfSaturation := by
  intro c v xs h
  refine ⟨svfRun_inRange c h, svfRun_length c v xs, fun x => ?_⟩
  obtain ⟨hlo, hhi⟩ := svfRecordTap_range c (svfRun c v xs).1 x.toInt
  exact ⟨hlo, hhi, _, svfRun_snoc_values c v xs x, svfProcess_value ..⟩

/-! The commands on a legal Svf. -/

/-- The four codes of rule R133. -/
theorem svfModeOf_of_mem {code : U16} {m : SvfMode}
    (h : (code.toNat, m) ∈ [(0, SvfMode.lp), (1, SvfMode.bp), (2, SvfMode.hp), (3, SvfMode.peak)]) :
    svfModeOf code = some m := by
  simp only [List.mem_cons, Prod.mk.injEq, List.not_mem_nil, or_false] at h
  obtain ⟨hcode, rfl⟩ | ⟨hcode, rfl⟩ | ⟨hcode, rfl⟩ | ⟨hcode, rfl⟩ := h <;> simp only [svfModeOf, hcode]

section
variable {s : State} {sub : BitVec 4} {k : Fin 3}

theorem onSvf_of_legal (hs : s.halted = false) (hk : sub.toNat = k.val) (i : Instr) (effect : Fin 3 → State) :
    onSvf i sub s effect = effect k := by
  simp only [onSvf, whenRunning_running _ _ hs, svfIndex_of_lt hk]

theorem exec_sInit (hs : s.halted = false) (hk : sub.toNat = k.val) :
    exec (.sInit sub) s = .next ((s.withSvf k svfInit).ok 0) :=
  congrArg Host.Outcome.next (onSvf_of_legal hs hk _ _)

theorem exec_sSetFrequency (hs : s.halted = false) (hk : sub.toNat = k.val) (f : S16) :
    exec (.sSetFrequency sub f) s = .next ((s.withSvf k (svfSetFrequency (s.osc.svf.get k) f)).ok 0) :=
  congrArg Host.Outcome.next (onSvf_of_legal hs hk _ _)

theorem exec_sSetResonance (hs : s.halted = false) (hk : sub.toNat = k.val) (r : S16) :
    exec (.sSetResonance sub r) s = .next ((s.withSvf k (svfSetResonance (s.osc.svf.get k) r)).ok 0) :=
  congrArg Host.Outcome.next (onSvf_of_legal hs hk _ _)

theorem exec_sSetPunch (hs : s.halted = false) (hk : sub.toNat = k.val) (p : U16) :
    exec (.sSetPunch sub p) s = .next ((s.withSvf k (svfSetPunch (s.osc.svf.get k) p)).ok 0) :=
  congrArg Host.Outcome.next (onSvf_of_legal hs hk _ _)

theorem exec_sSetMode (hs : s.halted = false) (hk : sub.toNat = k.val) {code : U16} {m : SvfMode}
    (hm : svfModeOf code = some m) :
    exec (.sSetMode sub code) s = .next ((s.withSvf k (svfSetMode (s.osc.svf.get k) m)).ok 0) := by
  refine congrArg Host.Outcome.next ((onSvf_of_legal hs hk _ _).trans ?_)
  simp only [hm]

theorem exec_sProcess (hs : s.halted = false) (hk : sub.toNat = k.val) (x : S16) :
    exec (.sProcess sub x) s = .next
      ((s.withSvf k (svfProcess cfg (s.osc.svf.get k) x.toInt).1).ok
        (sext32 (svfProcess cfg (s.osc.svf.get k) x.toInt).2)) :=
  congrArg Host.Outcome.next (onSvf_of_legal hs hk _ _)

end

/-! What replacing one Svf leaves. -/

/-- A response with Svf `k` replaced touches nothing else. -/
theorem onlySvf_withSvf (s : State) (k : Fin 3) (v : Svf) (value : U32) :
    OnlySvf k v s ((s.withSvf k v).ok value) :=
  ⟨⟨⟨rfl, rfl, rfl⟩, ⟨rfl, rfl⟩, fun _ => rfl⟩, rfl, Triple.get_set_self _ _ _,
    fun _ h => Triple.get_set_ne _ _ _ _ h⟩

/-- Settles O27: each setter answers 0 with the one Svf replaced. -/
theorem svfSetters : Obligations.SvfSetters := by
  intro s sub k hs hk
  exact ⟨⟨_, exec_sInit hs hk, rfl, onlySvf_withSvf s k _ 0⟩,
    fun f => ⟨_, exec_sSetFrequency hs hk f, rfl, onlySvf_withSvf s k _ 0⟩,
    fun r => ⟨_, exec_sSetResonance hs hk r, rfl, onlySvf_withSvf s k _ 0⟩,
    fun p => ⟨_, exec_sSetPunch hs hk p, rfl, onlySvf_withSvf s k _ 0⟩,
    fun _ _ hm => ⟨_, exec_sSetMode hs hk (svfModeOf_of_mem hm), rfl, onlySvf_withSvf s k _ 0⟩⟩

/-- The response word of an s16 value is the same number. -/
theorem toInt_sext32 (y : S16) : (sext32 y).toInt = y.toInt := BitVec.toInt_signExtend_of_le (by decide)

/-- `s.process` on Svf `k`: the record and the value are those of one `Svf_Process`, and all else is unchanged. -/
theorem sProcess_effect {s : State} {sub : BitVec 4} {k : Fin 3} (hs : s.halted = false) (hk : sub.toNat = k.val)
    (x : S16) :
    ∃ t, exec (.sProcess sub x) s = .next t ∧
      t.response = ⟨.ok, sext32 (svfProcess cfg (s.osc.svf.get k) x.toInt).2⟩ ∧
      OnlySvf k (svfProcess cfg (s.osc.svf.get k) x.toInt).1 s t :=
  ⟨_, exec_sProcess hs hk x, rfl, onlySvf_withSvf s k _ _⟩

/-- Settles O28: the process is that of rule R216, and its stages and its tap are stored exactly. -/
theorem svfProcess_holds : Obligations.SvfProcess := by
  intro s sub k x hs hk v coef hp bp lp
  obtain ⟨t, ht, hresponse, hframe⟩ := sProcess_effect hs hk x
  have ⟨_, _, hrec, _⟩ := hframe
  refine ⟨t, ht, ?frame, ?bandpass, ?lowpass, congrArg Response.kind hresponse, ?value⟩
  case frame =>
    rw [hrec, ← svfProcess_fst]
    exact hframe
  case bandpass =>
    rw [hrec]
    exact svfProcess_bp cfg v x.toInt
  case lowpass =>
    rw [hrec]
    exact svfProcess_lp cfg v x.toInt
  case value =>
    rw [hresponse]
    exact (toInt_sext32 _).trans (svfProcess_value cfg v x.toInt)

end Sys2Proof.Machine
end

section
/-! PROOFS. What a voice's Configure writes and what it leaves (43_voices_percussion.md rule R232 and the Configure
rule of each voice), and the four commands that run one (46_processors.md rules R354, R355, R358 and R359). -/

namespace Sys2Proof.Machine

open Sys2Proof.Config

/-! The setters of optional settings (41_excitation.md rules R192 and R193; 42_svf.md rules R212 to R215). -/

@[simp] theorem excApply_delay (e : Excitation) (delay decay : Option U16) :
    (excApply e delay decay).delay = delay.getD e.delay := rfl

@[simp] theorem excApply_decay (e : Excitation) (delay decay : Option U16) :
    (excApply e delay decay).decay = decay.getD e.decay := rfl

theorem excApply_signal (e : Excitation) (delay decay : Option U16) : SameExcSignal e (excApply e delay decay) :=
  ⟨rfl, rfl, rfl⟩

@[simp] theorem svfApply_frequency (v : Svf) (t : ResSettings) :
    (svfApply v t).frequency = t.frequency.getD v.frequency := rfl

@[simp] theorem svfApply_resonance (v : Svf) (t : ResSettings) :
    (svfApply v t).resonance = t.resonance.getD v.resonance := rfl

@[simp] theorem svfApply_punch (v : Svf) (t : ResSettings) : (svfApply v t).punch = t.punch.getD v.punch := rfl

@[simp] theorem svfApply_mode (v : Svf) (t : ResSettings) : (svfApply v t).mode = t.mode.getD v.mode := rfl

@[simp] theorem svfApply_lp (v : Svf) (t : ResSettings) : (svfApply v t).lp = v.lp := rfl

@[simp] theorem svfApply_bp (v : Svf) (t : ResSettings) : (svfApply v t).bp = v.bp := rfl

/-! The Configure of a resonator drum (rules R236 and R241). -/

section
variable {κ : Type} (o : DrumOpen κ) (tone : κ → U16) (d : Drum κ) (knobs : κ)

/-- The settings a Configure asks `BD_Apply` or `SD_Apply` for: those of the record with the new knobs and the
new low-pass coefficient. -/
def drumSettings : DrumSettings := o.apply { d with knobs := knobs, lpCoef := o.toneCoef (tone knobs) }

@[simp] theorem drumConfigure_pulse_get (j : Fin 3) :
    (drumConfigure o tone d knobs).pulse.get j =
      excApply (d.pulse.get j) ((drumSettings o tone d knobs).delay.get j)
        ((drumSettings o tone d knobs).decay.get j) :=
  match j with
  | 0 => rfl
  | 1 => rfl
  | 2 => rfl

@[simp] theorem drumConfigure_res_get (j : Fin 2) :
    (drumConfigure o tone d knobs).res.get j = svfApply (d.res.get j) ((drumSettings o tone d knobs).res.get j) :=
  match j with
  | 0 => rfl
  | 1 => rfl

/-- A drum's Configure changes settings, never the signal. -/
theorem drumConfigure_signal : SameDrumSignal d (drumConfigure o tone d knobs) := by
  refine ⟨fun j => ?pulses, fun j => ?integrators, rfl, rfl⟩
  case pulses =>
    rw [drumConfigure_pulse_get]
    exact excApply_signal _ _ _
  case integrators => simp

variable {o} in
/-- The configured record asks for the same settings again, because settings derive from knobs. -/
theorem apply_drumConfigure {c : Params} (h : DrumConforms c o) :
    o.apply (drumConfigure o tone d knobs) = drumSettings o tone d knobs :=
  h.apply_knobs _ _ rfl

variable {o} in
/-- The configured record holds the settings that it asks for. -/
theorem drumConfigure_settings {c : Params} (h : DrumConforms c o) : SettingsAre o (drumConfigure o tone d knobs) := by
  unfold SettingsAre
  rw [apply_drumConfigure tone d knobs h]
  exact ⟨fun j v hv => by simp [hv], fun j v hv => by simp [hv], fun j v hv => by simp [hv],
    fun j v hv => by simp [hv], fun j v hv => by simp [hv], fun j v hv => by simp [hv]⟩

end

/-! A Configure leaves the signal: the channel with one record replaced (rule R232). -/

theorem SameDrumSignal.refl {κ : Type} (d : Drum κ) : SameDrumSignal d d :=
  ⟨fun _ => ⟨rfl, rfl, rfl⟩, fun _ => ⟨rfl, rfl⟩, rfl, rfl⟩

theorem SameSignal.with_bd {p : Processor} {d : BassDrum} (h : SameDrumSignal p.bd d) :
    SameSignal p { p with bd := d } :=
  ⟨h, .refl _, rfl, rfl, rfl, rfl, rfl, rfl, rfl, rfl, rfl, rfl, rfl, rfl, rfl, rfl, fun _ => rfl, rfl⟩

theorem SameSignal.with_sd {p : Processor} {d : SnareDrum} (h : SameDrumSignal p.sd d) :
    SameSignal p { p with sd := d } :=
  ⟨.refl _, h, rfl, rfl, rfl, rfl, rfl, rfl, rfl, rfl, rfl, rfl, rfl, rfl, rfl, rfl, fun _ => rfl, rfl⟩

/-- An Lfo whose sync is set keeps its increment too, which the sync then owns (45_voices_generators.md rules R322
and R325). -/
theorem SameSignal.with_lfoConfigure (c : Params) (p : Processor) :
    SameSignal p { p with lfo := lfoConfigure c p.lfo p.param p.controlMode } :=
  ⟨.refl _, .refl _, rfl, rfl, rfl, rfl, rfl, rfl, rfl, rfl, rfl, rfl, rfl, rfl, rfl, rfl, fun hsync => if_pos hsync,
    rfl⟩

/-- Settles O49: the drums by their settings, the Lfo by its sync; the Configure of every other voice writes knobs,
and the gravity of the ball, alone. -/
theorem configureKeepsSignal : Obligations.ConfigureKeepsSignal := by
  intro c f p
  cases f with
  | bassDrum => exact .with_bd (drumConfigure_signal ..)
  | snareDrum => exact .with_sd (drumConfigure_signal ..)
  | lfo | tapLfo => exact .with_lfoConfigure c p
  | fmDrum | highHat | pulseShaper | pulseRandomizer | bouncingBall | miniSequencer | multistageEnvelope
  | numberStation =>
    exact ⟨.refl _, .refl _, rfl, rfl, rfl, rfl, rfl, rfl, rfl, rfl, rfl, rfl, rfl, rfl, rfl, rfl, fun _ => rfl, rfl⟩

/-! The knobs each voice's Configure writes, in both control modes. -/

theorem knobs4_knobsAre (mode : ControlMode) (param : Quad U16) (half2 half3 : U16) :
    KnobsAre mode param (knobs4 mode param half2 half3) half2 half3 := by
  cases mode with
  | full => exact ⟨fun _ _ => rfl, nofun⟩
  | half => exact ⟨nofun, fun _ => ⟨rfl, rfl, rfl, rfl⟩⟩

/-- Where the HALF sum of rule R236 fits its knob, it is the knob. -/
theorem bassHalfTone_toNat {c : Params} {p0 : U16} (h : c.bdHalfToneBase.toNat + p0.toNat / 2 < 65536) :
    (bassHalfTone c p0).toNat = c.bdHalfToneBase.toNat + p0.toNat / 2 := by
  simp only [bassHalfTone, Nat.shiftRight_eq_div_pow, pow_one, h, if_true, BitVec.toNat_ofNat]
  exact Nat.mod_eq_of_lt h

theorem bassConfigure_knobsAre {c : Params} (h : DrumConforms c c.bd) (d : BassDrum) (param : Quad U16)
    (mode : ControlMode) : BassKnobsAre c mode param (bassConfigure c d param mode) := by
  refine ⟨?full, ?half, rfl, drumConfigure_settings _ _ _ h⟩
  case full =>
    rintro rfl
    exact ⟨rfl, rfl, rfl, rfl⟩
  case half =>
    rintro rfl
    exact ⟨rfl, rfl, rfl, bassHalfTone_toNat⟩

theorem snareConfigure_knobsAre {c : Params} (h : DrumConforms c c.sd) (d : SnareDrum) (param : Quad U16)
    (mode : ControlMode) : SnareKnobsAre c mode param (snareConfigure c d param mode) := by
  refine ⟨?full, ?half, rfl, drumConfigure_settings _ _ _ h⟩
  case full | half =>
    rintro rfl
    exact ⟨rfl, rfl, rfl, rfl⟩

theorem shaperConfigure_knobsAre (c : Params) (p : PulseShaper) (param : Quad U16) (mode : ControlMode) :
    ShaperKnobsAre c mode param (shaperConfigure c p param mode).k := by
  cases mode with
  | full => exact ⟨fun _ _ => rfl, nofun⟩
  | half => exact ⟨nofun, fun _ => ⟨rfl, rfl, rfl, rfl⟩⟩

theorem code_lfoShapeOf {n : Nat} (h : n < 5) : LfoShape.code (lfoShapeOf n) = n := by
  interval_cases n <;> rfl

/-- The five bands of the shape knob (45_voices_generators.md rule R322). -/
theorem code_lfoShapeOfKnob (k1 : U16) : LfoShape.code (lfoShapeOfKnob k1) = k1.toNat * 5 / 65536 := by
  have hk : k1.toNat < 65536 := k1.isLt
  rw [lfoShapeOfKnob, Nat.shiftRight_eq_div_pow]
  exact code_lfoShapeOf (by omega)

theorem lfoConfigure_knobsAre (c : Params) (l : Lfo) (param : Quad U16) (mode : ControlMode) :
    LfoKnobsAre c mode param (lfoConfigure c l param mode) :=
  ⟨knobs4_knobsAre _ _ _ _, code_lfoShapeOfKnob _, rfl, fun hsync => if_neg (Bool.eq_false_iff.mp hsync)⟩

/-- The Configure of a channel's own function configures it. -/
theorem configured_configureRecord {c : Params} (hc : c.WellFormed) (p : Processor) :
    Configured c (configureRecord c p.function p) := by
  unfold Configured
  rw [configureRecord_function]
  cases p.function with
  | bassDrum => exact bassConfigure_knobsAre hc.bd_conforms ..
  | snareDrum => exact snareConfigure_knobsAre hc.sd_conforms ..
  | pulseShaper => exact shaperConfigure_knobsAre ..
  | bouncingBall => exact ⟨knobs4_knobsAre .., rfl⟩
  | lfo | tapLfo => exact lfoConfigure_knobsAre ..
  | fmDrum | highHat | pulseRandomizer | miniSequencer | multistageEnvelope | numberStation =>
    exact knobs4_knobsAre ..

/-- After a Configure the channel is configured: the voice it configures is the one the hysteresis leaves
(46_processors.md rule R356). -/
theorem configured_configure {c : Params} (hc : c.WellFormed) (p : Processor) : Configured c (configure c p) :=
  configured_configureRecord hc (hysteresis c p)

/-! The commands that end in a Configure, on legal operands. -/

section
variable {s : State} (hs : s.halted = false) (ch : Chan)
include hs

theorem exec_pInit : exec (.pInit ch) s = .next ((s.withProc ch (channelInit cfg)).ok 0) :=
  congrArg Host.Outcome.next (whenRunning_running _ _ hs)

theorem exec_pSetFunction {code : U16} {f : FunctionCode} (hf : functionOf code = some f) :
    exec (.pSetFunction ch code) s = .next ((s.withProc ch (channelSetFunction cfg f (s.proc ch))).ok 0) := by
  refine congrArg Host.Outcome.next ((whenRunning_running _ _ hs).trans ?_)
  simp only [hf]

theorem exec_pSetParameter {sub : BitVec 4} {k : Fin 4} (hk : sub.toNat = k.val) (v : U16) :
    exec (.pSetParameter ch sub v) s = .next ((s.withProc ch (channelSetParameter cfg k v (s.proc ch))).ok 0) := by
  refine congrArg Host.Outcome.next ((whenRunning_running _ _ hs).trans ?_)
  simp only [paramIndex_of_lt hk]

theorem exec_pSetControlMode {code : U16} {m : ControlMode} (hm : controlModeOf code = some m) :
    exec (.pSetControlMode ch code) s = .next ((s.withProc ch (channelSetControlMode cfg m (s.proc ch))).ok 0) := by
  refine congrArg Host.Outcome.next ((whenRunning_running _ _ hs).trans ?_)
  simp only [hm]

end

theorem functionOf_isSome {code : U16} (h : code.toNat < 12) : ∃ f, functionOf code = some f :=
  Option.ne_none_iff_exists'.mp fun hnone => absurd (functionOf_eq_none.mp hnone) (by omega)

theorem controlModeOf_isSome {code : U16} (h : code.toNat < 2) : ∃ m, controlModeOf code = some m :=
  Option.ne_none_iff_exists'.mp fun hnone => absurd (controlModeOf_eq_none.mp hnone) (by omega)

/-- The channel a command has stored after a Configure is configured. -/
theorem configured_withProc_configure (s : State) (ch : Chan) (p : Processor) :
    Configured cfg (((s.withProc ch (configure cfg p)).ok 0).proc ch) := by
  rw [State.proc_ok, State.proc_withProc]
  exact configured_configure cfg_wellFormed p

/-- Settles O60: each of the four commands stores a channel that a Configure has left. -/
theorem configureKnobs : Obligations.ConfigureKnobs := by
  intro s ch hs
  refine ⟨⟨_, exec_pInit hs ch, configured_withProc_configure s ch _⟩, fun code hcode => ?function,
    fun sub v hsub => ?parameter, fun code hcode => ?mode⟩
  case function =>
    obtain ⟨f, hf⟩ := functionOf_isSome hcode
    exact ⟨_, exec_pSetFunction hs ch hf, configured_withProc_configure s ch _⟩
  case parameter =>
    exact ⟨_, exec_pSetParameter hs ch (k := ⟨sub.toNat, hsub⟩) rfl v, configured_withProc_configure s ch _⟩
  case mode =>
    obtain ⟨m, hm⟩ := controlModeOf_isSome hcode
    exact ⟨_, exec_pSetControlMode hs ch hm, configured_withProc_configure s ch _⟩

end Sys2Proof.Machine
end

section
/-! PROOFS. Samples of the percussion voices: the pulses of a resonator drum that nothing triggers
(43_voices_percussion.md rules R235 and R237), and the increment and the recompute counter of the FmDrum (rules R246
and R248). -/

namespace Sys2Proof.Machine

open Sys2Proof.Config

/-! Excitations at rest. -/

/-- An Excitation with no countdown, no state and no level: what `Exc_Init` leaves, whatever the settings. -/
def ExcAtRest (e : Excitation) : Prop := e.counter = 0 ∧ e.state = 0 ∧ e.level = 0

/-- A process decays a state of 0 to 0 and starts no countdown (41_excitation.md rule R195). -/
theorem ExcAtRest.process {e : Excitation} (h : ExcAtRest e) (c : Params) (free : Nat) :
    ExcAtRest (excProcess c e free).1 := by
  obtain ⟨hcounter, hstate, hlevel⟩ := h
  have hrange : excInRange e = true := excInRange_iff.mpr (by simp [hstate, hlevel])
  have hnext : excNextState e = 0 := by
    rw [excNextState_decays (by omega), excDecayed_eq_div, hstate]
    simp
  refine ⟨?_, BitVec.eq_of_toNat_eq ((excProcess_state_of_inRange hrange).trans hnext), ?_⟩
  · rw [excProcess_counter, hcounter]
  · rw [excProcess_level, hlevel]

/-! The pulses of a resonator drum. -/

theorem drumInit_atRest {κ : Type} (o : DrumOpen κ) (tone : κ → U16) (j : Fin 3) :
    ExcAtRest ((drumInit o tone).pulse.get j) :=
  match j with
  | 0 => ⟨rfl, rfl, rfl⟩
  | 1 => ⟨rfl, rfl, rfl⟩
  | 2 => ⟨rfl, rfl, rfl⟩

/-- A sample without a trigger runs each pulse through one process, and does nothing else to it. -/
theorem drumSample_pulse {κ : Type} (c : Params) (o : DrumOpen κ) (d : Drum κ) {b : U8} (s : Draws)
    (hb : rising b = false) :
    (drumSample c o d b s).1.pulse =
      let r0 := excProcess c d.pulse.a0 s.free
      let r1 := excProcess c d.pulse.a1 r0.2.2
      ⟨r0.1, r1.1, (excProcess c d.pulse.a2 r1.2.2).1⟩ := by
  simp only [drumSample, hb, Bool.false_eq_true, if_false]

/-- Pulses at rest stay so over a sample without a trigger. -/
theorem drumSample_atRest {κ : Type} (c : Params) (o : DrumOpen κ) {d : Drum κ} {b : U8} (s : Draws)
    (hb : rising b = false) (hd : ∀ j, ExcAtRest (d.pulse.get j)) (j : Fin 3) :
    ExcAtRest ((drumSample c o d b s).1.pulse.get j) := by
  rw [drumSample_pulse c o d s hb]
  match j with
  | 0 => exact (hd 0).process c _
  | 1 => exact (hd 1).process c _
  | 2 => exact (hd 2).process c _

theorem drumRun_cons {κ : Type} (c : Params) (o : DrumOpen κ) (d : Drum κ) (b : U8) (rest : List U8) (s : Draws) :
    drumRun c o d (b :: rest) s = drumRun c o (drumSample c o d b s).1 rest (drumSample c o d b s).2.2 := rfl

/-- Pulses at rest stay so over any samples without a trigger. -/
theorem drumRun_atRest {κ : Type} (c : Params) (o : DrumOpen κ) {d : Drum κ} {ctrl : List U8} (s : Draws)
    (hctrl : ∀ b ∈ ctrl, rising b = false) (hd : ∀ j, ExcAtRest (d.pulse.get j)) (j : Fin 3) :
    ExcAtRest ((drumRun c o d ctrl s).1.pulse.get j) := by
  induction ctrl generalizing d s with
  | nil => exact hd j
  | cons b rest ih =>
    obtain ⟨hb, hrest⟩ := List.forall_mem_cons.mp hctrl
    rw [drumRun_cons]
    exact ih _ hrest (drumSample_atRest c o s hb hd)

/-- Settles O50: rest holds after Init and every sample without a trigger keeps it. -/
theorem drumPulsesRest : Obligations.DrumPulsesRest := by
  intro κ c o tone ctrl s hctrl j
  obtain ⟨hcounter, hstate, -⟩ := drumRun_atRest c o s hctrl (drumInit_atRest o tone) j
  exact ⟨hstate, excDone_iff.mpr hcounter⟩

/-! The FmDrum. -/

/-- The record a sample computes its increment from: triggered where the sample has a trigger. -/
def fmEntered (c : Params) (m : FmDrum) (b : U8) : FmDrum := if rising b then fmTriggered c m else m

theorem fmEntered_of_trigger (c : Params) (m : FmDrum) {b : U8} (h : rising b = true) :
    fmEntered c m b = fmTriggered c m := if_pos h

theorem fmEntered_of_quiet (c : Params) (m : FmDrum) {b : U8} (h : rising b = false) : fmEntered c m b = m :=
  if_neg (Bool.eq_false_iff.mp h)

@[simp] theorem fmEntered_rc (c : Params) (m : FmDrum) (b : U8) : (fmEntered c m b).rc = m.rc := by
  unfold fmEntered
  split <;> rfl

@[simp] theorem fmEntered_inc (c : Params) (m : FmDrum) (b : U8) : (fmEntered c m b).inc = m.inc := by
  unfold fmEntered
  split <;> rfl

/-- The record a sample renders from: after the trigger, if any, its increment is recomputed where `rc` is 0. -/
def fmUpdated (c : Params) (m : FmDrum) (b : U8) : FmDrum :=
  let m1 := fmEntered c m b
  if m1.rc = 0 then { m1 with inc := c.fm.increment m1.k m1.chirpEnv m1.prev m1.x } else m1

theorem fmSample_inc (c : Params) (m : FmDrum) (b : U8) : (fmSample c m b).1.inc = (fmUpdated c m b).inc := rfl

theorem fmSample_rc (c : Params) (m : FmDrum) (b : U8) : (fmSample c m b).1.rc = (fmUpdated c m b).rc + 1 := rfl

theorem fmUpdated_inc_of_held (c : Params) {m : FmDrum} (b : U8) (h : m.rc ≠ 0) : (fmUpdated c m b).inc = m.inc := by
  rw [← fmEntered_rc c m b] at h
  rw [fmUpdated, if_neg h, fmEntered_inc]

theorem fmUpdated_inc_of_recomputed (c : Params) {m : FmDrum} (b : U8) (h : m.rc = 0) :
    (fmUpdated c m b).inc =
      c.fm.increment (fmEntered c m b).k (fmEntered c m b).chirpEnv (fmEntered c m b).prev (fmEntered c m b).x := by
  rw [← fmEntered_rc c m b] at h
  rw [fmUpdated, if_pos h]

@[simp] theorem fmUpdated_rc (c : Params) (m : FmDrum) (b : U8) : (fmUpdated c m b).rc = m.rc := by
  rw [fmUpdated, apply_ite FmDrum.rc, ite_self, fmEntered_rc]

/-- Over a block `rc` advances by its samples, modulo 4. -/
theorem fmBlock_rc (c : Params) (m : FmDrum) (ctrl : List U8) :
    (renderBlock (fmSample c) m ctrl).1.rc.val = (m.rc.val + ctrl.length) % 4 := by
  induction ctrl generalizing m with
  | nil => exact (Nat.mod_eq_of_lt m.rc.isLt).symm
  | cons b rest ih =>
    have hrest := ih (fmSample c m b).1
    rw [fmSample_rc, fmUpdated_rc, Fin.val_add, Fin.val_one, Nat.mod_add_mod] at hrest
    rw [List.length_cons, Nat.add_comm rest.length, ← Nat.add_assoc]
    exact hrest

/-- Settles O51: a trigger changes neither the knobs nor the previous output, so on a sample with one the recomputed
increment sees the trigger in the chirp envelope and the extra state. -/
theorem fmRecompute : Obligations.FmRecompute := by
  intro c m b ctrl
  refine ⟨fun hrc => ?held, fun hrc hquiet => ?quiet, fun hrc htrigger => ?triggered, fmBlock_rc c m ctrl⟩
  case held => rw [fmSample_inc, fmUpdated_inc_of_held c b hrc]
  case quiet => rw [fmSample_inc, fmUpdated_inc_of_recomputed c b hrc, fmEntered_of_quiet c m hquiet]
  case triggered =>
    rw [fmSample_inc, fmUpdated_inc_of_recomputed c b hrc, fmEntered_of_trigger c m htrigger]
    rfl

end Sys2Proof.Machine
end

section
/-! PROOFS. The pulse voices (44_voices_pulse.md): the one window of a PulseShaper (rule R277), the silence of a
PulseRandomizer that accepts nothing (rule R286), and the motion of the BouncingBall (rules R293, R294 and R296). -/

namespace Sys2Proof.Machine

open Sys2Proof.Config

/-! The step of one PulseShaper slot (rule R275), for a slot with no repetitions left. -/

@[simp] theorem gateLevel_false (c : Params) : gateLevel c false = 0 := rfl

theorem pulseSlotLoop_of_running {s : PulseSlot} (h : s.timer ≠ 0) (fuel : Nat) (started : Bool) :
    pulseSlotLoop (fuel + 1) s started = (s, started) := by
  rw [pulseSlotLoop, if_pos h]

theorem pulseSlotLoop_of_delayOver {s : PulseSlot} (htimer : s.timer = 0) (hphase : s.phase = .delay) (fuel : Nat)
    (started : Bool) :
    pulseSlotLoop (fuel + 1) s started = pulseSlotLoop fuel { s with phase := .on, timer := s.duration } true := by
  rw [pulseSlotLoop, if_neg (not_not.mpr htimer), hphase]

theorem pulseSlotLoop_of_lastWindowOver {s : PulseSlot} (htimer : s.timer = 0) (hphase : s.phase = .on)
    (hlast : s.remaining = 0) (fuel : Nat) (started : Bool) :
    pulseSlotLoop (fuel + 1) s started = ({ s with active := false }, started) := by
  rw [pulseSlotLoop, if_neg (not_not.mpr htimer), hphase]
  exact if_pos hlast

theorem pulseSlotFuel_of_last {s : PulseSlot} (h : s.remaining = 0) : pulseSlotFuel s = 3 := by
  rw [pulseSlotFuel, h]
  rfl

/-- A step runs the loop, then counts the timer down while the slot is active. -/
theorem pulseSlotStep_of_loop {s s1 : PulseSlot} {started : Bool}
    (h : pulseSlotLoop (pulseSlotFuel s) s false = (s1, started)) :
    pulseSlotStep s =
      (if s1.active then { s1 with timer := s1.timer - 1 } else s1, s1.active && decide (s1.phase = .on), started) := by
  rw [pulseSlotStep, h]

/-- While the timer runs, a step only counts it down. -/
theorem pulseSlotStep_of_running {s : PulseSlot} (hactive : s.active = true) (htimer : s.timer ≠ 0) :
    pulseSlotStep s = ({ s with timer := s.timer - 1 }, decide (s.phase = .on), false) := by
  rw [pulseSlotStep_of_loop (pulseSlotLoop_of_running htimer _ false), hactive, Bool.true_and, if_pos rfl]

/-- The step after the last window makes the slot idle. -/
theorem pulseSlotStep_of_lastWindowOver {s : PulseSlot} (htimer : s.timer = 0) (hphase : s.phase = .on)
    (hlast : s.remaining = 0) : pulseSlotStep s = ({ s with active := false }, false, false) :=
  pulseSlotStep_of_loop (pulseSlotLoop_of_lastWindowOver htimer hphase hlast _ false)

/-- The slot as it enters a window. -/
def PulseSlot.opened (s : PulseSlot) : PulseSlot := { s with phase := .on, timer := s.duration }

/-- The loop of a slot whose delay is over and which has one window: its start, then at most its end. -/
theorem pulseSlotLoop_of_delayOver_last {s : PulseSlot} (htimer : s.timer = 0) (hphase : s.phase = .delay)
    (hlast : s.remaining = 0) : pulseSlotLoop (pulseSlotFuel s) s false = pulseSlotLoop 2 s.opened true := by
  rw [pulseSlotFuel_of_last hlast, pulseSlotLoop_of_delayOver htimer hphase, PulseSlot.opened]

/-- The step after the delay opens the window: it is ON this sample. -/
theorem pulseSlotStep_of_delayOver {s : PulseSlot} (hactive : s.active = true) (htimer : s.timer = 0)
    (hphase : s.phase = .delay) (hlast : s.remaining = 0) (hduration : s.duration ≠ 0) :
    pulseSlotStep s = ({ s.opened with timer := s.duration - 1 }, true, true) := by
  have hloop := (pulseSlotLoop_of_delayOver_last htimer hphase hlast).trans
    (pulseSlotLoop_of_running (s := s.opened) hduration 1 true)
  have hopened : s.opened.active = true := hactive
  simp only [pulseSlotStep_of_loop hloop, hopened, if_true]
  rfl

/-- A window of no samples starts and ends in the step after the delay. -/
theorem pulseSlotStep_of_emptyWindow {s : PulseSlot} (htimer : s.timer = 0) (hphase : s.phase = .delay)
    (hlast : s.remaining = 0) (hduration : s.duration = 0) :
    pulseSlotStep s = ({ s.opened with active := false }, false, true) :=
  pulseSlotStep_of_loop ((pulseSlotLoop_of_delayOver_last htimer hphase hlast).trans
    (pulseSlotLoop_of_lastWindowOver (s := s.opened) hduration rfl hlast 1 true))

/-! The window a slot still has, in samples from now. -/

/-- The slot will be ON on the samples from `lo` up to but not including `hi`, counted from the next one, and on no
other. -/
inductive SlotWindow : PulseSlot → Nat → Nat → Prop where
  | waiting {s : PulseSlot} (active : s.active = true) (phase : s.phase = .delay) (last : s.remaining = 0) :
      SlotWindow s s.timer.toNat (s.timer.toNat + s.duration.toNat)
  | running {s : PulseSlot} (active : s.active = true) (phase : s.phase = .on) (last : s.remaining = 0) :
      SlotWindow s 0 s.timer.toNat
  | closed {s : PulseSlot} (idle : s.active = false) : SlotWindow s 0 0

theorem toNat_pred {x : U32} (h : x ≠ 0) : (x - 1).toNat = x.toNat - 1 := by
  bv_omega

/-- What a step of an active slot with the window from `lo` to `hi` does: it is ON where the window has begun, the
window comes one sample nearer, a start is the end of the delay, and a slot still in its delay is not ON. -/
structure StepsWindow (s : PulseSlot) (lo hi : Nat) : Prop where
  window : SlotWindow (pulseSlotStep s).1 (lo - 1) (hi - 1)
  on : (pulseSlotStep s).2.1 = decide (lo = 0 ∧ 0 < hi)
  starts : (pulseSlotStep s).2.2 = true → s.phase = .delay
  waits : (pulseSlotStep s).1.phase = .delay → (pulseSlotStep s).2.1 = false

theorem stepsWindow_of_waiting {s : PulseSlot} (hactive : s.active = true) (hphase : s.phase = .delay)
    (hlast : s.remaining = 0) : StepsWindow s s.timer.toNat (s.timer.toNat + s.duration.toNat) := by
  by_cases htimer : s.timer = 0
  · have hlo : s.timer.toNat = 0 := by rw [htimer]; rfl
    rw [hlo, Nat.zero_add]
    by_cases hduration : s.duration = 0
    · have hhi : s.duration.toNat = 0 := by rw [hduration]; rfl
      have hstep := pulseSlotStep_of_emptyWindow htimer hphase hlast hduration
      rw [hhi]
      constructor <;> rw [hstep]
      · exact .closed rfl
      · rfl
      · exact fun _ => hphase
      · exact fun _ => rfl
    · have hhi : 0 < s.duration.toNat := by bv_omega
      have hstep := pulseSlotStep_of_delayOver hactive htimer hphase hlast hduration
      constructor <;> rw [hstep]
      · rw [← toNat_pred hduration]
        exact .running (s := { s.opened with timer := s.duration - 1 }) hactive rfl hlast
      · simp [hhi]
      · exact fun _ => hphase
      · exact nofun
  · have hstep := pulseSlotStep_of_running hactive htimer
    have hlo : 0 < s.timer.toNat := by bv_omega
    constructor <;> rw [hstep]
    · rw [Nat.sub_add_comm hlo, ← toNat_pred htimer]
      exact .waiting (s := { s with timer := s.timer - 1 }) hactive hphase hlast
    · simp [hphase, hlo.ne']
    · exact nofun
    · simp [hphase]

theorem stepsWindow_of_running {s : PulseSlot} (hactive : s.active = true) (hphase : s.phase = .on)
    (hlast : s.remaining = 0) : StepsWindow s 0 s.timer.toNat := by
  by_cases htimer : s.timer = 0
  · have hstep := pulseSlotStep_of_lastWindowOver htimer hphase hlast
    have hhi : s.timer.toNat = 0 := by rw [htimer]; rfl
    rw [hhi]
    constructor <;> rw [hstep]
    · exact .closed rfl
    · rfl
    · exact nofun
    · exact fun _ => rfl
  · have hstep := pulseSlotStep_of_running hactive htimer
    have hhi : 0 < s.timer.toNat := by bv_omega
    constructor <;> rw [hstep]
    · rw [← toNat_pred htimer]
      exact .running (s := { s with timer := s.timer - 1 }) hactive hphase hlast
    · simp [hphase, hhi]
    · exact nofun
    · simp [hphase]

theorem SlotWindow.steps {s : PulseSlot} {lo hi : Nat} (h : SlotWindow s lo hi) (hactive : s.active = true) :
    StepsWindow s lo hi := by
  cases h with
  | waiting _ hphase hlast => exact stepsWindow_of_waiting hactive hphase hlast
  | running _ hphase hlast => exact stepsWindow_of_running hactive hphase hlast
  | closed hidle => exact absurd hactive (by simp [hidle])

/-! A PulseShaper with one live slot (rule R276). -/

/-- Idle slots are not stepped. -/
theorem pulseSlotsStep_of_idle {slots : List PulseSlot} (h : ∀ s ∈ slots, s.active = false) :
    pulseSlotsStep slots = (slots, false, false) := by
  induction slots with
  | nil => rfl
  | cons s rest ih =>
    obtain ⟨hs, hrest⟩ := List.forall_mem_cons.mp h
    simp only [pulseSlotsStep, ih hrest, hs, Bool.false_eq_true, if_false]

theorem pulseSlotsStep_of_restIdle {s : PulseSlot} {rest : List PulseSlot} (hs : s.active = true)
    (hrest : ∀ r ∈ rest, r.active = false) :
    pulseSlotsStep (s :: rest) = ((pulseSlotStep s).1 :: rest, (pulseSlotStep s).2.1, (pulseSlotStep s).2.2) := by
  simp only [pulseSlotsStep, pulseSlotsStep_of_idle hrest, hs, if_true, Bool.or_false]

/-- A trigger is an allocation before a sample without one. -/
theorem shaperSample_of_trigger (c : Params) (p : PulseShaper) {b : U8} (h : rising b = true) :
    shaperSample c p b = shaperSample c (shaperAllocate c p) 0 := by
  have hquiet : rising 0 = false := by decide
  simp only [shaperSample, h, hquiet, if_true, Bool.false_eq_true, if_false]

/-- With no notch under way, and no window starting while the output is high, the output is the OR of the slots. -/
theorem shaperSample_of_noNotch (c : Params) {p : PulseShaper} {b : U8} (hb : rising b = false) (hnotch : p.notch = 0)
    (hstart : (pulseSlotsStep p.slot).2.2 = true → p.prevHigh = false) :
    shaperSample c p b =
      ({ p with slot := (pulseSlotsStep p.slot).1, prevHigh := (pulseSlotsStep p.slot).2.1 },
        gateLevel c (pulseSlotsStep p.slot).2.1) := by
  have hclear : ((pulseSlotsStep p.slot).2.2 && p.prevHigh) = false := by
    cases hst : (pulseSlotsStep p.slot).2.2 with
    | false => rfl
    | true => rw [hstart hst]; rfl
  simp only [shaperSample, hb, hclear, hnotch, Bool.false_eq_true, if_false, ne_eq, not_true_eq_false]

/-- The shaper will be high on the samples from `lo` up to but not including `hi`, counted from the next one, and on
no other: its first slot has that window, the others are idle, and no notch can come in between. -/
structure PlaysWindow (p : PulseShaper) (lo hi : Nat) : Prop where
  pool : ∃ s rest, p.slot = s :: rest ∧ SlotWindow s lo hi ∧ (∀ r ∈ rest, r.active = false) ∧
    (s.phase = .delay → p.prevHigh = false)
  notch : p.notch = 0

/-- A sample without a trigger is high where the window has begun, and brings it one sample nearer. -/
theorem PlaysWindow.sample {p : PulseShaper} {lo hi : Nat} (h : PlaysWindow p lo hi) (c : Params) {b : U8}
    (hb : rising b = false) :
    (shaperSample c p b).2 = gateLevel c (decide (lo = 0 ∧ 0 < hi)) ∧
      PlaysWindow (shaperSample c p b).1 (lo - 1) (hi - 1) := by
  obtain ⟨⟨s, rest, hslot, hwindow, hrest, hlow⟩, hnotch⟩ := h
  cases hactive : s.active with
  | true =>
    have hpool := pulseSlotsStep_of_restIdle hactive hrest
    obtain ⟨hnext, hon, hstarts, hwaits⟩ := hwindow.steps hactive
    rw [← hslot] at hpool
    rw [shaperSample_of_noNotch c hb hnotch (by rw [hpool]; exact fun hst => hlow (hstarts hst)), hpool]
    exact ⟨congrArg (gateLevel c) hon, ⟨_, rest, rfl, hnext, hrest, hwaits⟩, hnotch⟩
  | false =>
    have hpool := pulseSlotsStep_of_idle (List.forall_mem_cons.mpr ⟨hactive, hrest⟩)
    obtain ⟨rfl, rfl⟩ : lo = 0 ∧ hi = 0 := by
      cases hwindow with
      | waiting h => simp [hactive] at h
      | running h => simp [hactive] at h
      | closed => exact ⟨rfl, rfl⟩
    rw [← hslot] at hpool
    rw [shaperSample_of_noNotch c hb hnotch (by rw [hpool]; exact nofun), hpool]
    exact ⟨rfl, ⟨s, rest, hslot, .closed hactive, hrest, fun _ => rfl⟩, hnotch⟩

/-! Its outputs over a block. -/

/-- The outputs of `n` samples that are high on those from `lo` up to but not including `hi`. -/
def windowGate (c : Params) (lo hi n : Nat) : List S16 :=
  (List.range n).map fun i => gateLevel c (decide (lo ≤ i ∧ i < hi))

theorem windowGate_succ (c : Params) (lo hi n : Nat) :
    windowGate c lo hi (n + 1) = gateLevel c (decide (lo = 0 ∧ 0 < hi)) :: windowGate c (lo - 1) (hi - 1) n := by
  have hlater (i : Nat) : (lo ≤ i + 1 ∧ i + 1 < hi) ↔ (lo - 1 ≤ i ∧ i < hi - 1) := by omega
  have hfirst : lo ≤ 0 ∧ 0 < hi ↔ lo = 0 ∧ 0 < hi := by omega
  simp only [windowGate, List.range_succ_eq_map, List.map_cons, List.map_map, Function.comp_def, Nat.succ_eq_add_one,
    hlater, hfirst]

/-- A block without a trigger plays the window of the shaper. -/
theorem PlaysWindow.block {p : PulseShaper} {lo hi : Nat} (h : PlaysWindow p lo hi) (c : Params) {ctrl : List U8}
    (hctrl : ∀ b ∈ ctrl, rising b = false) :
    (renderBlock (shaperSample c) p ctrl).2 = windowGate c lo hi ctrl.length := by
  induction ctrl generalizing p lo hi with
  | nil => rfl
  | cons b rest ih =>
    obtain ⟨hb, hrest⟩ := List.forall_mem_cons.mp hctrl
    obtain ⟨hout, hnext⟩ := h.sample c hb
    rw [List.length_cons, windowGate_succ, ← hout, ← ih hnext hrest]
    rfl

/-- An initialised shaper with its knobs set. -/
def shaperReady (k : Quad U16) : PulseShaper := { shaperInit with k := k }

theorem shaperReady_idle (k : Quad U16) : ∀ s ∈ (shaperReady k).slot, s.active = false := fun _ hs => by
  rw [List.eq_of_mem_replicate hs]
  rfl

/-- Without a trigger an initialised shaper stays as it is and is low. -/
theorem shaperSample_ready (c : Params) (k : Quad U16) {b : U8} (hb : rising b = false) :
    shaperSample c (shaperReady k) b = (shaperReady k, 0) := by
  have hpool := pulseSlotsStep_of_idle (shaperReady_idle k)
  rw [shaperSample_of_noNotch c hb rfl (fun _ => rfl), hpool]
  rfl

/-- A trigger takes the first slot of an initialised shaper. -/
theorem shaperAllocate_ready (c : Params) (k : Quad U16) :
    shaperAllocate c (shaperReady k) =
      { shaperReady k with
        slot := ⟨true, .delay, fit32 c .delay (c.ps.delay k.a0), fit32 c .duration (c.ps.duration k.a1),
          fit32 c .gap (c.ps.gap k.a2), c.ps.repetitions k.a3⟩ :: List.replicate 31 pulseSlotInit
        next := 1 } := by
  have hfirst : findIdle (fun s => ((shaperReady k).slot.getD s pulseSlotInit).active) (shaperReady k).next = some 0 :=
    rfl
  rw [shaperAllocate, hfirst]
  rfl

/-- After a trigger the shaper has the window that the knobs set. -/
theorem playsWindow_of_trigger (c : Params) (k : Quad U16) (hlast : c.ps.repetitions k.a3 = 0) :
    PlaysWindow (shaperAllocate c (shaperReady k)) (fit32 c .delay (c.ps.delay k.a0)).toNat
      ((fit32 c .delay (c.ps.delay k.a0)).toNat + (fit32 c .duration (c.ps.duration k.a1)).toNat) := by
  rw [shaperAllocate_ready]
  refine ⟨⟨_, _, rfl, .waiting (s := ⟨true, .delay, _, _, _, _⟩) rfl rfl hlast, fun r hr => ?_, fun _ => rfl⟩, rfl⟩
  rw [List.eq_of_mem_replicate hr]
  rfl

theorem toNat_fit32 (c : Params) (place : U32Place) {n : Nat} (h : n < 2 ^ 32) : (fit32 c place n).toNat = n := by
  have hfits : fit32 c place n = BitVec.ofNat 32 n := if_pos h
  rw [hfits, BitVec.toNat_ofNat, Nat.mod_eq_of_lt h]

/-- A block with one trigger plays the window the trigger leaves, from the trigger's sample on. -/
theorem shaperBlock_ready (c : Params) (k : Quad U16) {before after : List U8} {b : U8} {lo hi : Nat}
    (hwindow : PlaysWindow (shaperAllocate c (shaperReady k)) lo hi) (hb : rising b = true)
    (hbefore : ∀ x ∈ before, rising x = false) (hafter : ∀ x ∈ after, rising x = false) :
    (renderBlock (shaperSample c) (shaperReady k) (before ++ b :: after)).2 =
      windowGate c (before.length + lo) (before.length + hi) (before.length + 1 + after.length) := by
  induction before with
  | nil =>
    have hquiet : ∀ x ∈ (0 : U8) :: after, rising x = false := List.forall_mem_cons.mpr ⟨by decide, hafter⟩
    have hblock := hwindow.block c hquiet
    simp only [renderBlock, ← shaperSample_of_trigger c _ hb] at hblock
    simpa [renderBlock, Nat.add_comm] using hblock
  | cons x rest ih =>
    obtain ⟨hx, hrest⟩ := List.forall_mem_cons.mp hbefore
    have hn : rest.length + 1 + 1 + after.length = rest.length + 1 + after.length + 1 := by omega
    have hlo : rest.length + 1 + lo - 1 = rest.length + lo := by omega
    have hhi : rest.length + 1 + hi - 1 = rest.length + hi := by omega
    have hlow : decide (rest.length + 1 + lo = 0 ∧ 0 < rest.length + 1 + hi) = false := decide_eq_false (by omega)
    rw [List.length_cons, hn, windowGate_succ, hlo, hhi, hlow, gateLevel_false, ← ih hrest]
    simp only [List.cons_append, renderBlock, shaperSample_ready c k hx]

/-- Settles O52: the trigger gives its slot the window of the knobs, every other sample brings it one sample nearer,
and no notch falls into it since the output is low until it starts. -/
theorem shaperWindow : Obligations.ShaperWindow := by
  intro c k before after b hlast hb hbefore hafter
  refine ⟨(fit32 c .delay (c.ps.delay k.a0)).toNat, (fit32 c .duration (c.ps.duration k.a1)).toNat,
    toNat_fit32 c .delay, toNat_fit32 c .duration, ?_⟩
  have hblock := shaperBlock_ready c k (playsWindow_of_trigger c k hlast) hb hbefore hafter
  rw [← Nat.add_assoc] at hblock
  exact hblock

/-! The PulseRandomizer. -/

theorem randomRun_nextRandom (c : Params) (n : Nat) (rng : U32) :
    randomRun c n (nextRandom c rng) = randomRun c (n + 1) rng := by
  induction n with
  | zero => rfl
  | succ n ih => exact congrArg (nextRandom c) ih

/-- A probability of 0 never passes, and takes its draw (rule R283). -/
theorem chance_zero (c : Params) (s : Draws) : chance c 0 s = (false, { s with rng := nextRandom c s.rng }) := rfl

theorem randomizerTrigger_of_neverAccepts (c : Params) {p : PulseRandomizer} (hk : p.k.a0 = 0) (s : Draws) :
    randomizerTrigger c p s = (p, { s with rng := nextRandom c s.rng }) := by
  simp only [randomizerTrigger, hk, chance_zero, Bool.false_eq_true, if_false]

/-- Idle slots are not stepped and draw nothing. -/
theorem randomSlotsStep_of_idle (c : Params) (k : Quad U16) {slots : List RandomSlot}
    (h : ∀ r ∈ slots, r.active = false) (s : Draws) : randomSlotsStep c k slots s = (slots, false, s) := by
  induction slots with
  | nil => rfl
  | cons r rest ih =>
    obtain ⟨hr, hrest⟩ := List.forall_mem_cons.mp h
    simp only [randomSlotsStep, hr, ih hrest, Bool.false_eq_true, if_false, Bool.or_false]

/-- The draws after the acceptance draws of `n` triggers. -/
def drawsAfter (c : Params) (n : Nat) (s : Draws) : Draws := { s with rng := randomRun c n s.rng }

/-- A sample is low, leaves the record as it is, and takes one draw where it has a trigger. -/
theorem randomizerSample_of_silent (c : Params) {p : PulseRandomizer} (hk : p.k.a0 = 0)
    (hidle : ∀ r ∈ p.slot, r.active = false) (s : Draws) (b : U8) :
    randomizerSample c (p, s) b = ((p, drawsAfter c (rising b).toNat s), 0) := by
  cases hb : rising b with
  | true =>
    simp only [randomizerSample, hb, if_true, randomizerTrigger_of_neverAccepts c hk, randomSlotsStep_of_idle c _ hidle]
    rfl
  | false =>
    simp only [randomizerSample, hb, Bool.false_eq_true, if_false, randomSlotsStep_of_idle c _ hidle]
    rfl

/-- The draws of a sample come before those of the rest of the block. -/
theorem drawsAfter_countP_cons (c : Params) (b : U8) (rest : List U8) (s : Draws) :
    drawsAfter c (rest.countP fun x => rising x) (drawsAfter c (rising b).toNat s) =
      drawsAfter c ((b :: rest).countP fun x => rising x) s := by
  cases hb : rising b with
  | true =>
    rw [List.countP_cons_of_pos hb, drawsAfter, drawsAfter, drawsAfter, ← randomRun_nextRandom]
    rfl
  | false =>
    rw [List.countP_cons_of_neg (by simp [hb])]
    rfl

theorem renderBlock_of_silent (c : Params) {p : PulseRandomizer} (hk : p.k.a0 = 0)
    (hidle : ∀ r ∈ p.slot, r.active = false) (s : Draws) (ctrl : List U8) :
    renderBlock (randomizerSample c) (p, s) ctrl =
      ((p, drawsAfter c (ctrl.countP fun b => rising b) s), List.replicate ctrl.length 0) := by
  induction ctrl generalizing s with
  | nil => rfl
  | cons b rest ih =>
    simp only [renderBlock, randomizerSample_of_silent c hk hidle, ih, drawsAfter_countP_cons, List.length_cons,
      List.replicate_succ]

/-- Settles O53: no trigger is accepted, so the slots stay idle and a trigger's only draw is that of its acceptance. -/
theorem randomizerSilent : Obligations.RandomizerSilent := by
  intro c p ctrl s hk hidle
  rw [randomizerFill, renderBlock_of_silent c hk hidle]
  rfl

/-! The BouncingBall. -/

theorem ballMove_position (loss : U16) (p v : Int) : (ballMove loss p v).1 = max 0 (min ballMax p) := by
  unfold ballMove ballMax
  split
  · omega
  · split <;> omega

theorem ballMove_velocity (loss : U16) (p v : Int) :
    (ballMove loss p v).2 = if p < 0 ∨ ballMax < p then bounce loss v else v := by
  by_cases hfloor : p < 0
  · rw [ballMove, if_pos hfloor, if_pos (.inl hfloor)]
  · by_cases hceiling : ballMax < p
    · rw [ballMove, if_neg hfloor, if_pos hceiling, if_pos (.inr hceiling)]
    · rw [ballMove, if_neg hfloor, if_neg hceiling, if_neg (not_or.mpr ⟨hfloor, hceiling⟩)]

/-- A bounce turns the velocity round and makes it no larger. -/
theorem bounce_between (loss : U16) (v : Int) : -max 0 v ≤ bounce loss v ∧ bounce loss v ≤ -min 0 v := by
  have hloss := loss.isLt
  have hkept : (65536 : Int) - (loss.toNat : Int) = ((65536 - loss.toNat : Nat) : Int) := by omega
  obtain ⟨hlo, hhi⟩ := shiftRight_mul_between v (frac := 65536 - loss.toNat) (n := 16) (by omega)
  rw [bounce, hkept]
  omega

/-- A velocity inside the s32 range stays so over a step. -/
theorem ballMove_velocity_range (loss : U16) (p : Int) {v : Int} (hlo : -2147483648 < v) (hhi : v < 2147483648) :
    -2147483648 ≤ (ballMove loss p v).2 ∧ (ballMove loss p v).2 ≤ 2147483647 := by
  have hbounce := bounce_between loss v
  rw [ballMove_velocity]
  split <;> omega

/-- While the new velocity stays inside its range, the step stores the move exactly. -/
theorem ballStep_of_inRange (c : Params) {b : BouncingBall} (free : Nat) {v : Int}
    (hv : v = b.velocity.toInt - (b.gravity : Int)) (hlo : -2147483648 < v) (hhi : v < 2147483648) :
    ((ballStep c b free).1.position.toNat : Int) = (ballMove b.k.a1 ((b.position.toNat : Int) + v) v).1 ∧
    (ballStep c b free).1.velocity.toInt = (ballMove b.k.a1 ((b.position.toNat : Int) + v) v).2 ∧
    (ballStep c b free).2 = free := by
  obtain ⟨hvlo, hvhi⟩ := ballMove_velocity_range b.k.a1 ((b.position.toNat : Int) + v) hlo hhi
  have hposition := ballMove_position b.k.a1 ((b.position.toNat : Int) + v) v
  simp only [ballStep, ← hv, if_pos (And.intro hlo hhi)]
  refine ⟨?_, toInt_ofInt_s32 hvlo hvhi, trivial⟩
  rw [BitVec.toNat_ofInt, hposition, ballMax]
  omega

theorem ballLaunch_position (c : Params) (b : BouncingBall) :
    (ballLaunch c b).position.toNat = b.k.a2.toNat * 2 ^ 15 := by
  have hk := b.k.a2.isLt
  rw [ballLaunch, BitVec.toNat_ofNat, Nat.shiftLeft_eq, Nat.mod_eq_of_lt (by omega)]

theorem ballSample_of_trigger (c : Params) (b : BouncingBall) (free : Nat) {ctrl : U8} (h : rising ctrl = true) :
    (ballSample c (b, free) ctrl).1 = (ballLaunch c b, free) := by
  simp only [ballSample, h, if_true]

theorem ballSample_of_quiet (c : Params) (b : BouncingBall) (free : Nat) {ctrl : U8} (h : rising ctrl = false) :
    (ballSample c (b, free) ctrl).1 = ballStep c b free := by
  simp only [ballSample, h, Bool.false_eq_true, if_false]

/-- The output is the top 15 bits of the position after the sample. -/
theorem ballSample_output (c : Params) (b : BouncingBall) (free : Nat) (ctrl : U8) :
    (ballSample c (b, free) ctrl).2.toInt = ((ballSample c (b, free) ctrl).1.1.position.toNat / 2 ^ 16 : Nat) := by
  have hposition := (ballSample c (b, free) ctrl).1.1.position.isLt
  have hout : (ballSample c (b, free) ctrl).2.toNat = (ballSample c (b, free) ctrl).1.1.position.toNat / 2 ^ 16 := by
    rw [← Nat.shiftRight_eq_div_pow]
    refine (BitVec.toNat_ofNat _ _).trans (Nat.mod_eq_of_lt ?_)
    rw [Nat.shiftRight_eq_div_pow]
    omega
  rw [BitVec.toInt_eq_toNat_of_lt (by omega), hout]

/-- Settles O54: a launch or a move, whose position and bounced velocity fit the record; a position of 31 bits has an
output of 15. -/
theorem ballMotion : Obligations.BallMotion := by
  intro c b free ctrl
  have hout := ballSample_output c b free ctrl
  have hposition := (ballSample c (b, free) ctrl).1.1.position.isLt
  refine ⟨fun htrigger => ?launched, fun hquiet hlo hhi => ?moved, hout, by omega, by omega⟩
  case launched =>
    rw [ballSample_of_trigger c b free htrigger]
    exact ⟨ballLaunch_position c b, rfl⟩
  case moved =>
    rw [ballSample_of_quiet c b free hquiet]
    obtain ⟨hpos, hvel, hfree⟩ := ballStep_of_inRange c free rfl hlo hhi
    exact ⟨hpos.trans (ballMove_position ..), hvel.trans (ballMove_velocity ..), hfree⟩

end Sys2Proof.Machine
end

section
/-! PROOFS. The Lfo (45_voices_generators.md): what a switch between LFO and TAP_LFO keeps (rules R322 and R327), and
the range of its waveform and its scaled output (rules R323, R324 and R328). -/

namespace Sys2Proof.Machine

open Sys2Proof.Config

/-! The switch between LFO and TAP_LFO. -/

theorem usesLfo_iff {f : FunctionCode} : f.usesLfo = true ↔ f = .lfo ∨ f = .tapLfo := by
  simp [FunctionCode.usesLfo]

/-- The hysteresis moves between the snare drum and the hat only (46_processors.md rule R357). -/
theorem hysteresis_of_usesLfo (c : Params) {p : Processor} (h : p.function.usesLfo = true) : hysteresis c p = p := by
  have hother : p.function ≠ .snareDrum ∧ p.function ≠ .highHat := by
    obtain hf | hf := usesLfo_iff.mp h <;> simp [hf]
  obtain ⟨hsnare, hhat⟩ := hother
  rw [hysteresis, if_neg fun ⟨hf, _⟩ => hsnare hf, if_neg fun ⟨hf, _⟩ => hhat hf]

theorem configureRecord_of_usesLfo (c : Params) {f : FunctionCode} (h : f.usesLfo = true) (p : Processor) :
    configureRecord c f p = { p with lfo := lfoConfigure c p.lfo p.param p.controlMode } := by
  obtain rfl | rfl := usesLfo_iff.mp h <;> rfl

theorem configure_of_usesLfo (c : Params) {p : Processor} (h : p.function.usesLfo = true) :
    configure c p = { p with lfo := lfoConfigure c p.lfo p.param p.controlMode } := by
  rw [configure, hysteresis_of_usesLfo c h]
  exact configureRecord_of_usesLfo c h p

/-- A switch configures the same record, with only its sync set before. -/
theorem channelSetFunction_lfo_of_switch (c : Params) {f : FunctionCode} (p : Processor) (h : f.usesLfo = true)
    (h' : p.function.usesLfo = true) :
    (channelSetFunction c f p).lfo = lfoConfigure c { p.lfo with sync := f == .tapLfo } p.param p.controlMode := by
  rw [channelSetFunction_of_switch c p h h', configure_of_usesLfo c h]

/-- With its sync set an Lfo keeps its increment over a Configure. -/
theorem lfoConfigure_phaseInc_of_sync (c : Params) {l : Lfo} (h : l.sync = true) (param : Quad U16)
    (mode : ControlMode) : (lfoConfigure c l param mode).phaseInc = l.phaseInc := if_pos h

/-- With its sync clear it takes the free-running rate. -/
theorem lfoConfigure_phaseInc_of_free (c : Params) {l : Lfo} (h : l.sync = false) (param : Quad U16)
    (mode : ControlMode) :
    (lfoConfigure c l param mode).phaseInc = c.lfo.rateInc (lfoConfigure c l param mode).k.a0 :=
  if_neg (Bool.eq_false_iff.mp h)

/-- Settles O32: the switch only sets sync, and the Configure then writes the knobs and what derives from them, with
the increment among it exactly where sync is clear. -/
theorem lfoTempoKept : Obligations.LfoTempoKept := by
  intro s ch code f hs hcode hf hold
  refine ⟨_, exec_pSetFunction hs ch (functionOf_eq_some.mpr hcode), ?_⟩
  rw [State.proc_ok, State.proc_withProc, channelSetFunction_lfo_of_switch cfg _ hf hold]
  refine ⟨rfl, rfl, rfl, rfl, rfl, rfl, ?toTapLfo, ?toLfo⟩
  case toTapLfo =>
    rintro rfl
    exact lfoConfigure_phaseInc_of_sync cfg rfl _ _
  case toLfo =>
    rintro rfl
    exact lfoConfigure_phaseInc_of_free cfg rfl _ _

/-! The range of the waveform, by row of the table of rule R323. -/

/-- The integer is one that an s16 register holds. -/
def InS16 (v : Int) : Prop := -32768 ≤ v ∧ v ≤ 32767

theorem inS16_of_between {v a b : Int} (ha : InS16 a) (hb : InS16 b) (h : min a b ≤ v ∧ v ≤ max a b) : InS16 v := by
  unfold InS16 at *
  omega

theorem tableAt_inS16 (t : List S16) (i : Nat) : InS16 (tableAt t i) := toInt_s16_range _

/-- A position between two entries of a table has a value between theirs. -/
theorem interpolate824_inS16 {bits : Nat} (h : bits ≤ 24) (t : List S16) (p : U32) :
    InS16 (interpolate824 bits t p) := by
  rw [interpolate824_eq_lerp]
  exact inS16_of_between (tableAt_inS16 t _) (tableAt_inS16 t _) (lerp_between _ _ (fraction824_lt h p).le)

/-- The top half of a phase, which places it in the cycle, has 16 bits. -/
theorem phase_high_lt (phase : U32) : phase.toNat >>> 16 < 2 ^ 16 := by
  rw [Nat.shiftRight_eq_div_pow]
  exact Nat.div_lt_of_lt_mul phase.isLt

/-- A NOISE Lfo moves from one of its two end points towards the other. -/
theorem noiseSegment_inS16 (a b : S16) (phase : U32) : InS16 (lerp a.toInt b.toInt (phase.toNat >>> 16) 16) :=
  inS16_of_between (toInt_s16_range a) (toInt_s16_range b) (lerp_between _ _ (phase_high_lt phase).le)

/-- Every row of the table is an s16: SINE and NOISE lie between two of them, TRIANGLE clips, SQUARE has two
values, STEPS wraps. -/
theorem lfoWaveValue_inS16 {c : Params} (hc : c.WellFormed) (l : Lfo) : InS16 (lfoWaveValue c l) := by
  unfold lfoWaveValue
  cases l.shape with
  | sine => exact interpolate824_inS16 hc.interp_bits.2 _ _
  | triangle =>
    dsimp only
    split <;> exact clip16_range _
  | square =>
    dsimp only
    split <;> exact ⟨by decide, by decide⟩
  | steps => exact toInt_s16_range _
  | noise => exact noiseSegment_inS16 l.noisePrev l.noiseNext l.phase

/-! The output. -/

/-- The scale of rule R324 is at most 1. -/
theorem lfoScale_inS16 {w : Int} (hw : InS16 w) (k3 : U16) : InS16 (lfoScale w k3) :=
  inS16_of_between (a := 0) ⟨by decide, by decide⟩ hw (shiftRight_mul_between w (frac := k3.toNat + 1) k3.isLt)

/-- The output of a sample is the scaled waveform of the record the sample leaves. -/
theorem lfoSample_output (c : Params) (ls : Lfo × Draws) (ctrl : U8) :
    (lfoSample c ls ctrl).2 = BitVec.ofInt 16
      (lfoScale (lfoWaveValue c (lfoSample c ls ctrl).1.1) (lfoSample c ls ctrl).1.1.k.a3) := rfl

/-- Settles O55: the waveform is an s16, and scaling by at most 1 leaves an s16, which the output register holds
exactly. -/
theorem lfoRange : Obligations.LfoRange := by
  intro c l s ctrl hc
  have hw := lfoWaveValue_inS16 hc (lfoSample c (l, s) ctrl).1.1
  obtain ⟨hlo, hhi⟩ := lfoScale_inS16 hw (lfoSample c (l, s) ctrl).1.1.k.a3
  refine ⟨hw.1, hw.2, ?_⟩
  rw [lfoSample_output]
  exact toInt_ofInt_s16 hlo hhi

end Sys2Proof.Machine
end

section
/-! PROOFS. The coupling of the rings (46_processors.md rules R360, R361 and R363): whatever moves the input ring's
write index moves the output ring's read index with it, and the same for the other two. -/

namespace Sys2Proof.Machine

open Sys2Proof.Config

/-! What a command can do to one channel. -/

/-- What a command other than `sys.reset` makes of a channel, its own or the other. -/
inductive ChannelEffect (p : Processor) : Processor → Prop where
  /-- A command on another unit, a read, a fault, or a refusal. -/
  | same : ChannelEffect p p
  /-- `p.init`. -/
  | init : ChannelEffect p (channelInit cfg)
  /-- A setter: a mode, parameters, and voice records written by a Configure. -/
  | configure (mode : ControlMode) (param : Quad U16) {q : Processor}
      (keeps : KeepsChannel { p with controlMode := mode, param := param } q) : ChannelEffect p q
  /-- `p.process`. -/
  | process (ctrl : U8) (d : Draws) : ChannelEffect p (channelProcess cfg ctrl p d).p
  /-- `p.buffer`. -/
  | buffer (d : Draws) : ChannelEffect p (channelBuffer cfg p d).p

/-- An effect on one channel, seen from either. -/
theorem ChannelEffect.withProc {s : State} {ch : Chan} {p : Processor} (h : ChannelEffect (s.proc ch) p)
    (ch' : Chan) : ChannelEffect (s.proc ch') ((s.withProc ch p).proc ch') := by
  by_cases hc : ch' = ch
  · subst hc
    rwa [State.proc_withProc]
  · rw [State.proc_withProc_ne s ch ch' p hc]
    exact .same

@[simp] theorem State.proc_withResult {α : Type} (s : State) (ch : Chan) (r : ChannelResult α) (ch' : Chan) :
    (s.withResult ch r).proc ch' = (s.withProc ch r.p).proc ch' := by
  simp [State.withResult]

/-- What an effect makes of each channel. -/
theorem Effect.channel {s t : State} (h : Effect s t) (ch : Chan) : ChannelEffect (s.proc ch) (t.proc ch) := by
  cases h with
  | fault cause word =>
    rw [raiseFault_proc]
    exact .same
  | initChannel ch' =>
    rw [State.proc_ok]
    exact ChannelEffect.withProc .init ch
  | configure ch' mode param p value keeps =>
    rw [State.proc_ok]
    exact ChannelEffect.withProc (.configure mode param keeps) ch
  | process ch' ctrl =>
    rw [State.proc_ok, State.proc_withResult]
    exact ChannelEffect.withProc (.process ctrl _) ch
  | buffer ch' =>
    rw [State.proc_ok, State.proc_withResult]
    exact ChannelEffect.withProc (.buffer _) ch
  | _ =>
    cases ch with
    | ch0 => exact .same
    | ch1 => exact .same

/-! The indices. -/

/-- A series of reads gives its number of values, in a ring of any shape. -/
theorem Ring.readMany_length {α : Type} (n : Nat) (zero : α) (count : Nat) (g : Ring α) :
    (g.readMany n zero count).2.1.length = count := by
  induction count generalizing g with
  | zero => rfl
  | succ count ih => simp [Ring.readMany, ih]

/-- The rings just initialised have all four indices at 0. -/
theorem coupled_init (c : Params) : Coupled (channelInit c) := by
  obtain ⟨hin, hout⟩ := channelInit_rings c
  rw [Coupled, hin, hout]
  exact ⟨rfl, rfl⟩

/-- An unbuffered function has a single-sample function. -/
theorem processSample_of_unbuffered (c : Params) {p : Processor} (ctrl : U8) (d : Draws)
    (h : p.function.buffered = false) : ∃ p' y d', processSample c p ctrl d = some (p', y, d') := by
  have hsome := processSample_isSome c p ctrl d
  rw [h] at hsome
  obtain ⟨⟨p', y, d'⟩, hp⟩ := Option.isSome_iff_exists.mp hsome
  exact ⟨p', y, d', hp⟩

/-- `p.process` writes one cell and reads one, or touches no ring. -/
theorem Coupled.process {c : Params} {p : Processor} (h : Coupled p) (ctrl : U8) (d : Draws) :
    Coupled (channelProcess c ctrl p d).p := by
  cases hb : p.function.buffered with
  | false =>
    obtain ⟨p', y, d', hp⟩ := processSample_of_unbuffered c ctrl d hb
    rw [channelProcess_unbuffered hp]
    exact h.of_keeps (keepsChannel_processSample hp).1
  | true =>
    rw [channelProcess_buffered c p ctrl d hb]
    obtain ⟨hw, hr⟩ := h
    exact ⟨congrArg (fun i => (i + 1) % c.ringCapacity) hw, hr⟩

/-- `p.buffer` reads and writes as many cells, one per sample of a block, or touches no ring. -/
theorem Coupled.buffer {c : Params} {p : Processor} (h : Coupled p) (d : Draws) : Coupled (channelBuffer c p d).p := by
  by_cases hn : p.function.buffered = false ∨ p.outRing.writable c.ringCapacity < c.blockSize
  · rw [channelBuffer_nothing c p d hn]
    exact h
  · obtain ⟨hb, hw⟩ : p.function.buffered = true ∧ ¬ p.outRing.writable c.ringCapacity < c.blockSize := by
      simpa [not_or] using hn
    obtain ⟨p', ys, d', hf, heq⟩ := channelBuffer_block c p d hb hw
    obtain ⟨hkeeps, -, hys⟩ := keepsChannel_fillBuffer hf
    rw [Ring.readMany_length] at hys
    have hin := hkeeps.inRing.trans (Ring.readMany_index c.ringCapacity 0 c.blockSize p.inRing)
    obtain ⟨hoW, hoR⟩ := Ring.writeMany_index c.ringCapacity ys p.outRing
    obtain ⟨hcW, hcR⟩ := h
    rw [heq, Coupled]
    simp only [hin, hoW, hoR, hys, hcW, hcR, and_self]

theorem ChannelEffect.coupled {p q : Processor} (h : ChannelEffect p q) (hp : Coupled p) : Coupled q := by
  cases h with
  | same => exact hp
  | init => exact coupled_init cfg
  | configure mode param keeps =>
    exact Coupled.of_keeps (p := { p with controlMode := mode, param := param }) hp keeps
  | process ctrl d => exact hp.process ctrl d
  | buffer d => exact hp.buffer d

/-- Settles O59: each effect on a channel moves coupled indices together, and `sys.reset` starts the rings afresh. -/
theorem stepKeepsCoupling : Obligations.StepKeepsCoupling := by
  intro s t hs h
  obtain ⟨-, rfl⟩ | ⟨w, rest, -, ⟨-, rfl⟩ | ⟨-, he⟩⟩ := step_cases h
  · exact hs
  · exact ⟨coupled_init cfg, coupled_init cfg⟩
  · obtain ⟨h0, h1⟩ := hs
    exact ⟨(he.channel .ch0).coupled h0, (he.channel .ch1).coupled h1⟩

end Sys2Proof.Machine
end

section
/-! PROOFS. The counts of a ring (46_processors.md rule R350). -/

namespace Sys2Proof.Machine

/-- One cell is kept empty. -/
theorem RingOk.readable_add_writable {α : Type} {n : Nat} {g : Ring α} (h : RingOk n g) :
    g.readable n + g.writable n = n - 1 := by
  obtain ⟨-, hr, hw⟩ := h
  rw [Ring.readable_cases hr hw, Ring.writable_cases hr hw]
  split <;> split <;> omega

theorem RingOk.readable_eq_zero {α : Type} {n : Nat} {g : Ring α} (h : RingOk n g) :
    g.readable n = 0 ↔ g.r = g.w := by
  obtain ⟨-, hr, hw⟩ := h
  rw [Ring.readable_cases hr hw]
  split <;> omega

/-- Settles O40: the counts are residues modulo the capacity, which is not 0, and they share all cells but one. -/
theorem ringCounts : Obligations.RingCounts := by
  intro α n g hg
  have hsum := hg.readable_add_writable
  have hn : (n : Int) ≠ 0 := by
    obtain ⟨-, hr, -⟩ := hg
    omega
  exact ⟨Int.toNat_of_nonneg (Int.emod_nonneg _ hn), Int.toNat_of_nonneg (Int.emod_nonneg _ hn), hsum,
    hg.readable_eq_zero.symm, by omega⟩

end Sys2Proof.Machine
end

section
/-! PROOFS. The four commands that end in a Configure (46_processors.md rules R354, R355, R358 and R359), the
hysteresis between the snare drum and the hat (rule R357), and what they leave. -/

namespace Sys2Proof.Machine

open Sys2Proof.Config

/-! What a command on one channel leaves of the rest of the block. -/

theorem Chan.other_ne (ch : Chan) : Chan.other ch ≠ ch := by
  cases ch <;> decide

/-- A setter's next state: the channel replaced and a response. -/
theorem onlyChannel_withProc (s : State) (ch : Chan) (p : Processor) (value : U32) :
    OnlyChannel ch s ((s.withProc ch p).ok value) := by
  have hother := State.proc_withProc_ne s ch _ p (Chan.other_ne ch)
  simp [OnlyChannel, OutsideChannelSame, SameSystem, SameMemory, hother]

/-! The hysteresis: its three cases, the function it leaves and the records it touches. -/

/-- A snare drum below the upper threshold, a hat above the lower one and every other function stay. -/
theorem hysteresis_stays (c : Params) {p : Processor}
    (hsnare : ¬ (p.function = .snareDrum ∧ 65000 < p.param.a1.toNat ∧ 65000 < p.param.a2.toNat))
    (hhat : ¬ (p.function = .highHat ∧ (p.param.a1.toNat < 64500 ∨ p.param.a2.toNat < 64500))) :
    hysteresis c p = p := by
  rw [hysteresis, if_neg hsnare, if_neg hhat]

theorem hysteresis_of_other (c : Params) {p : Processor} (hsnare : p.function ≠ .snareDrum)
    (hhat : p.function ≠ .highHat) : hysteresis c p = p :=
  hysteresis_stays c (fun ⟨hf, _⟩ => hsnare hf) (fun ⟨hf, _⟩ => hhat hf)

/-- What the hysteresis can do: it leaves a channel as it is, or initialises the voice it switches to. -/
theorem hysteresis_cases (c : Params) (p : Processor) :
    (p.function = .snareDrum ∧ hysteresis c p = { p with function := .highHat, hh := hatInit c }) ∨
    (p.function = .highHat ∧ hysteresis c p = { p with function := .snareDrum, sd := snareInit c }) ∨
    hysteresis c p = p := by
  by_cases hsnare : p.function = .snareDrum ∧ 65000 < p.param.a1.toNat ∧ 65000 < p.param.a2.toNat
  · obtain ⟨hf, h1, h2⟩ := hsnare
    exact .inl ⟨hf, hysteresis_to_hat c hf h1 h2⟩
  · by_cases hhat : p.function = .highHat ∧ (p.param.a1.toNat < 64500 ∨ p.param.a2.toNat < 64500)
    · obtain ⟨hf, hlow⟩ := hhat
      exact .inr (.inl ⟨hf, hysteresis_to_snare c hf hlow⟩)
    · exact .inr (.inr (hysteresis_stays c hsnare hhat))

/-- The function a Configure leaves is the one rule R357 names. -/
theorem hysteresisRule_configure (c : Params) (p : Processor) :
    HysteresisRule p.function (configure c p).function p.param := by
  rw [configure_function]
  refine ⟨fun hf h1 h2 => ?toHat, fun hf hlow => ?staysSnare, fun hf hlow => ?toSnare, fun hf h1 h2 => ?staysHat,
    fun hsnare hhat => ?other⟩
  case toHat => rw [hysteresis_to_hat c hf h1 h2]
  case toSnare => rw [hysteresis_to_snare c hf hlow]
  case staysSnare => rw [hysteresis_stays c (by omega) (by simp [hf]), hf]
  case staysHat => rw [hysteresis_stays c (by simp [hf]) (by omega), hf]
  case other => rw [hysteresis_of_other c hsnare hhat]

theorem mem_configureTouches (f : FunctionCode) : f ∈ configureTouches f := by
  cases f <;> decide

theorem OtherRecordsSame.refl (l : List FunctionCode) (p : Processor) : OtherRecordsSame l p p := by
  simp [OtherRecordsSame]

/-- The hysteresis stays among the functions a Configure may touch, and touches the records of those alone. -/
theorem hysteresis_touches (c : Params) (p : Processor) :
    (hysteresis c p).function ∈ configureTouches p.function ∧
    OtherRecordsSame (configureTouches p.function) p (hysteresis c p) := by
  obtain ⟨hf, heq⟩ | ⟨hf, heq⟩ | heq := hysteresis_cases c p <;> rw [heq]
  · rw [hf]
    exact ⟨by simp [configureTouches], by simp [OtherRecordsSame, configureTouches]⟩
  · rw [hf]
    exact ⟨by simp [configureTouches], by simp [OtherRecordsSame, configureTouches]⟩
  · exact ⟨mem_configureTouches _, .refl _ p⟩

/-- A Configure touches no record but those the hysteresis may touch and that of the function it leaves. -/
theorem otherRecordsSame_configure (c : Params) (p : Processor) :
    OtherRecordsSame (configureTouches p.function) p (configure c p) := by
  obtain ⟨hmem, hsame⟩ := hysteresis_touches c p
  exact hsame.trans ((otherRecordsSame_configureRecord c _ _).mono (by simpa using hmem))

/-! `p.init`. -/

/-- With the bass drum selected the hysteresis at the end of `p.init` does nothing (rule R354). -/
theorem channelInit_eq (c : Params) :
    channelInit c = { channelCleared c with bd := bassConfigure c (bassInit c) (Quad.same 0) .full } := by
  have hstays : hysteresis c (channelCleared c) = channelCleared c := hysteresis_of_other c nofun nofun
  rw [channelInit, configure, hstays]
  rfl

/-- Settles O30: the channel stored is the cleared one with its bass drum configured. -/
theorem pInit_holds : Obligations.PInit := by
  intro s ch hs
  refine ⟨_, exec_pInit hs ch, rfl, onlyChannel_withProc s ch _ 0, ?_⟩
  rw [State.proc_ok, State.proc_withProc, channelInit_eq]
  exact ⟨rfl, rfl, Quad.get_same 0, rfl, rfl, rfl, rfl, rfl, rfl, rfl, rfl, rfl, rfl, rfl, rfl, rfl⟩

/-! `p.set_function`. -/

/-- Selecting a function configures a channel that has it, in which no other function's record was touched. -/
theorem channelSetFunction_selected (c : Params) (f : FunctionCode) (p : Processor) :
    ∃ p1, channelSetFunction c f p = configure c p1 ∧ p1.function = f ∧ p1.param = p.param ∧
      OtherRecordsSame [f] p p1 := by
  cases hf : f.usesLfo with
  | false =>
    exact ⟨_, channelSetFunction_of_other c p hf, rfl, (keepsChannel_initRecord c f p).param,
      otherRecordsSame_initRecord c f p⟩
  | true =>
    have hlfo : ∀ l, OtherRecordsSame [f] p { p with function := f, lfo := l } := by
      obtain rfl | rfl := usesLfo_iff.mp hf <;> simp [OtherRecordsSame]
    cases hold : p.function.usesLfo with
    | false => exact ⟨_, channelSetFunction_of_fresh c p hf hold, rfl, rfl, hlfo _⟩
    | true => exact ⟨_, channelSetFunction_of_switch c p hf hold, rfl, rfl, hlfo _⟩

/-- Settles O31: the three branches of rule R355, each of which ends in a Configure from the function selected. -/
theorem pSetFunction_holds : Obligations.PSetFunction := by
  intro s ch code f hs hcode p
  refine ⟨_, exec_pSetFunction hs ch (functionOf_eq_some.mpr hcode), rfl, onlyChannel_withProc s ch _ 0, ?_⟩
  rw [State.proc_ok, State.proc_withProc]
  have hkeeps := keepsChannel_setFunction cfg f p
  obtain ⟨p1, heq, hfunction, hparam, hsame⟩ := channelSetFunction_selected cfg f p
  refine ⟨⟨hkeeps.inRing, hkeeps.outRing⟩, hkeeps.param, hkeeps.controlMode, ?records, ?rule,
    channelSetFunction_of_other cfg p, channelSetFunction_of_fresh cfg p, channelSetFunction_of_switch cfg p⟩
  case records =>
    have hconfigure := otherRecordsSame_configure cfg p1
    rw [hfunction, ← heq] at hconfigure
    exact (hsame.mono (by simpa using mem_configureTouches f)).trans hconfigure
  case rule =>
    have hrule := hysteresisRule_configure cfg p1
    rwa [hfunction, hparam, ← heq] at hrule

/-! `p.set_parameter` and `p.set_control_mode`. -/

/-- Settles O33: the channel stored is the Configure of the one with the register written. -/
theorem pSetParameter_holds : Obligations.PSetParameter := by
  intro s ch sub i v hs hsub p
  refine ⟨_, exec_pSetParameter hs ch hsub v, rfl, onlyChannel_withProc s ch _ 0, ?_⟩
  rw [State.proc_ok, State.proc_withProc, channelSetParameter]
  have hkeeps := keepsChannel_configure cfg { p with param := p.param.set i v }
  refine ⟨rfl, ?written, fun j hj => ?others, ⟨hkeeps.inRing, hkeeps.outRing⟩, hkeeps.controlMode,
    otherRecordsSame_configure cfg { p with param := p.param.set i v }⟩
  case written =>
    rw [hkeeps.param]
    exact Quad.get_set_self _ i v
  case others =>
    rw [hkeeps.param]
    exact Quad.get_set_ne _ i j v hj

/-- Settles O34: the channel stored is the Configure of the one with the mode written. -/
theorem pSetControlMode_holds : Obligations.PSetControlMode := by
  intro s ch code m hs hcode p
  refine ⟨_, exec_pSetControlMode hs ch (controlModeOf_eq_some.mpr hcode), rfl, onlyChannel_withProc s ch _ 0, ?_⟩
  rw [State.proc_ok, State.proc_withProc, channelSetControlMode]
  have hkeeps := keepsChannel_configure cfg { p with controlMode := m }
  exact ⟨rfl, hkeeps.controlMode, hkeeps.param, ⟨hkeeps.inRing, hkeeps.outRing⟩,
    otherRecordsSame_configure cfg { p with controlMode := m }⟩

/-! A switch by the hysteresis. -/

/-- From the snare drum to the hat, which is initialised and configured. -/
theorem configure_to_hat (c : Params) {p : Processor} (hf : p.function = .snareDrum)
    (hf' : (configure c p).function = .highHat) :
    (configure c p).hh = hatConfigure c (hatInit c) p.param p.controlMode ∧ (configure c p).sd = p.sd := by
  rw [configure_function] at hf'
  obtain ⟨-, heq⟩ | ⟨hhat, -⟩ | heq := hysteresis_cases c p
  · rw [configure, heq]
    exact ⟨rfl, rfl⟩
  · simp [hf] at hhat
  · simp [heq, hf] at hf'

/-- From the hat to the snare drum, which is initialised and configured. -/
theorem configure_to_snare (c : Params) {p : Processor} (hf : p.function = .highHat)
    (hf' : (configure c p).function = .snareDrum) :
    (configure c p).sd = snareConfigure c (snareInit c) p.param p.controlMode ∧ (configure c p).hh = p.hh := by
  rw [configure_function] at hf'
  obtain ⟨hsnare, -⟩ | ⟨-, heq⟩ | heq := hysteresis_cases c p
  · simp [hf] at hsnare
  · rw [configure, heq]
    exact ⟨rfl, rfl⟩
  · simp [heq, hf] at hf'

/-- Settles O35: a parameter write ends in a Configure of the channel with the register written. -/
theorem hysteresisSwitch : Obligations.HysteresisSwitch := by
  intro s ch sub i v hs hsub p q
  refine ⟨_, exec_pSetParameter hs ch hsub v, ?_⟩
  rw [State.proc_ok, State.proc_withProc, channelSetParameter]
  exact ⟨hysteresisRule_configure cfg { p with param := q }, configure_to_hat cfg (p := { p with param := q }),
    configure_to_snare cfg (p := { p with param := q })⟩

end Sys2Proof.Machine
end

section
/-! PROOFS. `p.process`, `p.buffer` and `p.read` (46_processors.md rules R351 and R360 to R364). -/

namespace Sys2Proof.Machine

open Sys2Proof.Config

/-! What a channel's part of a command leaves of the rest of the block. -/

@[simp] theorem State.withProc_proc (s : State) (ch : Chan) : s.withProc ch (s.proc ch) = s := by
  cases ch <;> rfl

@[simp] theorem State.withDraws_draws (s : State) : s.withDraws s.draws = s := rfl

@[simp] theorem State.withStatus_status (s : State) : s.withStatus s.sys.status = s := rfl

/-- A channel's part of a command that changes nothing leaves the block as it is. -/
theorem State.withResult_nothing {α : Type} (s : State) (ch : Chan) (value : α) :
    s.withResult ch ⟨s.proc ch, s.draws, RingEvents.none, value⟩ = s := by
  simp [State.withResult]

theorem State.draws_withResult_ok {α : Type} (s : State) (ch : Chan) (r : ChannelResult α) (value : U32) :
    ((s.withResult ch r).ok value).draws = r.draws := rfl

/-- `p.process` and `p.buffer` touch one channel, its ring flags and the draws. -/
theorem outsideChannelSame_withResult {α : Type} (s : State) (ch : Chan) (r : ChannelResult α) (value : U32) :
    OutsideChannelSame ch s ((s.withResult ch r).ok value) := by
  have hother := State.proc_withProc_ne s ch _ r.p (Chan.other_ne ch)
  simp [OutsideChannelSame, SameMemory, State.withResult, hother]

/-! The commands on a running block. -/

section
variable {s : State} (hs : s.halted = false) (ch : Chan)
include hs

theorem exec_pProcess (ctrl : BitVec 3) :
    exec (.pProcess ch ctrl) s = .next
      ((s.withResult ch (channelProcess cfg (controlByte ctrl) (s.proc ch) s.draws)).ok
        (sext32 (channelProcess cfg (controlByte ctrl) (s.proc ch) s.draws).value)) :=
  congrArg Host.Outcome.next (whenRunning_running _ _ hs)

theorem exec_pBuffer :
    exec (.pBuffer ch) s = .next
      ((s.withResult ch (channelBuffer cfg (s.proc ch) s.draws)).ok
        (flag32 (channelBuffer cfg (s.proc ch) s.draws).value)) :=
  congrArg Host.Outcome.next (whenRunning_running _ _ hs)

theorem exec_pRead {sel : BitVec 4} {v : U32} (hv : readChannel cfg (s.proc ch) sel = some v) :
    exec (.pRead ch sel) s = .next { s with response := ⟨.ok, v⟩ } := by
  refine congrArg Host.Outcome.next ((whenRunning_running _ _ hs).trans ?_)
  simp only [hv]
  rfl

end

/-! `p.process`. -/

/-- A single-sample function replaces the record of the active voice. -/
theorem processSample_cases {c : Params} {p p' : Processor} {ctrl : U8} {d d' : Draws} {y : S16}
    (h : processSample c p ctrl d = some (p', y, d')) :
    (p.function = .bassDrum ∧ ∃ r, p' = { p with bd := r }) ∨
    (p.function = .snareDrum ∧ ∃ r, p' = { p with sd := r }) ∨
    (p.function = .highHat ∧ ∃ r, p' = { p with hh := r }) := by
  unfold processSample at h
  split at h
  case h_1 hf => cases h; exact .inl ⟨hf, _, rfl⟩
  case h_2 hf => cases h; exact .inr (.inl ⟨hf, _, rfl⟩)
  case h_4 hf => cases h; exact .inr (.inr ⟨hf, _, rfl⟩)
  all_goals cases h

/-- A single-sample function touches its own record alone. -/
theorem otherRecordsSame_processSample {c : Params} {p p' : Processor} {ctrl : U8} {d d' : Draws} {y : S16}
    (h : processSample c p ctrl d = some (p', y, d')) : OtherRecordsSame [p.function] p p' := by
  obtain ⟨hf, r, rfl⟩ | ⟨hf, r, rfl⟩ | ⟨hf, r, rfl⟩ := processSample_cases h
  all_goals
    rw [hf]
    simp [OtherRecordsSame]

/-- Settles O36: the command's part of the channel is the voice's single-sample function, and no ring event happens. -/
theorem pProcessUnbuffered : Obligations.PProcessUnbuffered := by
  intro s ch ctrl hs hb
  obtain ⟨p, y, d, hp⟩ := processSample_of_unbuffered cfg (controlByte ctrl) s.draws hb
  obtain ⟨hkeeps, hfunction⟩ := keepsChannel_processSample hp
  have hsame := otherRecordsSame_processSample hp
  rw [← hfunction] at hsame
  have hexec := exec_pProcess hs ch ctrl
  rw [channelProcess_unbuffered hp] at hexec
  refine ⟨_, p, y, d, hexec, hp, ?channel, rfl, rfl, ⟨hkeeps.inRing, hkeeps.outRing⟩, hfunction, hkeeps.param,
    hkeeps.controlMode, hsame, ?status, outsideChannelSame_withResult s ch _ _⟩
  case channel => rw [State.proc_ok, State.proc_withResult, State.proc_withProc]
  case status => rw [State.ok_sys, State.withResult_status, statusOnRing_none]

/-- Settles O37: one write and one read, whose events are a full input ring and an empty output ring. -/
theorem pProcessBuffered : Obligations.PProcessBuffered := by
  intro s ch ctrl hs hb p n
  have hexec := exec_pProcess hs ch ctrl
  rw [channelProcess_buffered cfg (s.proc ch) (controlByte ctrl) s.draws hb] at hexec
  refine ⟨_, hexec, rfl, ?channel, fun b => ?status, rfl, outsideChannelSame_withResult s ch _ _⟩
  case channel =>
    rw [State.proc_ok, State.proc_withResult, State.proc_withProc]
    rfl
  case status =>
    rw [State.ok_sys, State.withResult_status, getLsbD_onRing]
    simp [p, n]

/-! The flags of `p.process` with coupled rings (rule R363). -/

/-- The queued samples leave their number less one of writable cells in the input ring; with none queued that ring
is empty. -/
theorem Coupled.inRing_writable {n : Nat} {p : Processor} (h : Coupled p) (hin : RingOk n p.inRing)
    (hout : RingOk n p.outRing) :
    p.inRing.writable n = if p.outRing.readable n = 0 then n - 1 else p.outRing.readable n - 1 := by
  obtain ⟨hw, hr⟩ := h
  obtain ⟨-, hinR, hinW⟩ := hin
  obtain ⟨-, houtR, houtW⟩ := hout
  rw [Ring.writable_cases hinR hinW, Ring.readable_cases houtR houtW, hw, hr]
  split_ifs <;> omega

/-- Settles O41: the input ring is full exactly with one sample queued, and the output ring empty with none. -/
theorem ringFlags : Obligations.RingFlags := by
  intro s ch ctrl hs hb hok hcoupled queued
  obtain ⟨hin, hout, -, -⟩ := hok
  have hwritable := hcoupled.inRing_writable hin hout
  have hblock := cfg_wellFormed.block_pos
  have hroom := cfg_wellFormed.ring_room
  obtain ⟨t, ht, -, -, hstatus, -⟩ := pProcessBuffered s ch ctrl hs hb
  have hempty : ((s.proc ch).outRing.readable cfg.ringCapacity = 0) = (queued = 0) := rfl
  have hfull : ((s.proc ch).inRing.writable cfg.ringCapacity = 0) = (queued = 1) := by
    rw [hwritable]
    refine propext ?_
    split <;> omega
  simp only [hempty, hfull] at hstatus
  refine ⟨t, ht, fun hq => BitVec.eq_of_getLsbD_eq fun b _ => ?enough, fun hq b => ?one, fun hq b => ?none⟩
  case enough => simp [hstatus, show queued ≠ 0 by omega, show queued ≠ 1 by omega]
  case one => simp [hstatus, hq]
  case none => simp [hstatus, hq]

/-! `p.buffer`. -/

/-- Settles O38: nothing happens, or the block read, rendered and written is that of the rule, for which the output
ring has room. -/
theorem pBuffer_holds : Obligations.PBuffer := by
  intro s ch hs hok p n b
  obtain ⟨⟨-, hinR, hinW⟩, ⟨houtLength, houtR, houtW⟩, -, -⟩ := hok
  have hb1 : 1 ≤ b := cfg_wellFormed.block_pos
  have hb2 : 2 * b ≤ n := cfg_wellFormed.ring_room
  refine ⟨_, exec_pBuffer hs ch, fun hnothing => ?nothing, fun hbuffered hroom => ?block⟩
  case nothing =>
    rw [channelBuffer_nothing cfg _ s.draws hnothing, State.withResult_nothing]
    exact ⟨rfl, ⟨rfl, rfl, rfl⟩, ⟨rfl, rfl⟩, rfl, fun _ => rfl⟩
  case block =>
    obtain ⟨p', ys, d, hfill, heq⟩ := channelBuffer_block cfg p s.draws hbuffered (Nat.not_lt.mpr hroom)
    obtain ⟨-, -, hys⟩ := keepsChannel_fillBuffer hfill
    obtain ⟨hring, hctrl⟩ := Ring.readMany_spec n 0 b p.inRing hinR
    rw [hctrl] at hys
    obtain ⟨hw, hr, -⟩ := Ring.writeMany_spec n ys p.outRing houtW
    rw [hys] at hw
    refine ⟨by rw [heq]; rfl, outsideChannelSame_withResult s ch _ _, (p.inRing.readMany n 0 b).2.1, ys, p', d, hctrl,
      fun j hj => Ring.readMany_getD n 0 b p.inRing hinR j hj, by rw [← hring]; exact hfill, hys, ?_⟩
    rw [State.draws_withResult_ok, State.proc_ok, State.proc_withResult, State.proc_withProc, State.ok_sys,
      State.withResult_status, heq]
    refine ⟨rfl, rfl, hr, hw, fun j hj => ?written, fun i hi => ?kept, fun i => ?status⟩
    case written => exact Ring.writeMany_written n 0 ys p.outRing houtW houtLength (by omega) j (by omega)
    case kept => exact Ring.writeMany_kept n 0 ys p.outRing houtW i (by rwa [hys])
    case status =>
      have hempty := Ring.readMany_empty n 0 b p.inRing hinR hinW (by omega)
      have hfits := Ring.writeMany_room n ys p.outRing houtR houtW (by omega)
      rw [getLsbD_onRing, hempty, hfits]
      simp

/-! `p.read`. -/

/-- Settles O39: each select reads its field, and a count that 32 bits hold is read exactly. -/
theorem pRead_holds : Obligations.PRead := by
  intro s ch hs p reads
  exact ⟨exec_pRead hs ch rfl, exec_pRead hs ch rfl, exec_pRead hs ch rfl, exec_pRead hs ch rfl,
    exec_pRead hs ch rfl, exec_pRead hs ch rfl, ⟨_, exec_pRead hs ch rfl, toNat_fit32 cfg .readCount⟩,
    ⟨_, exec_pRead hs ch rfl, toNat_fit32 cfg .readCount⟩, exec_pRead hs ch rfl, fun _ => faults_badIndex hs rfl⟩

end Sys2Proof.Machine
end

section
/-! PROOFS. The setters of the oscillator and `o.read` (47_oscillator.md rules R391 to R395 and R401). -/

namespace Sys2Proof.Machine

open Sys2Proof.Config

/-! The setters: each ends in a new oscillator and the response 0. -/

theorem onlyOscillator_withOsc (s : State) (o : Oscillator) (value : U32) :
    OnlyOscillator s ((s.withOsc o).ok value) := ⟨⟨rfl, rfl, rfl⟩, ⟨rfl, rfl⟩, fun _ => rfl⟩

section
variable {s : State} (hs : s.halted = false)
include hs

theorem exec_oInit : exec .oInit s = .next ((s.withOsc (oscInit cfg)).ok 0) :=
  congrArg Host.Outcome.next (whenRunning_running _ _ hs)

theorem exec_oSetShape {code : U16} (hcode : code.toNat < cfg.numShapes) :
    exec (.oSetShape code) s = .next ((s.withOsc { s.osc with shape := code.toNat }).ok 0) := by
  simp only [exec, execOSetShape, oSetShape, whenRunning_running _ _ hs, shapeOf_eq, if_pos hcode]

theorem exec_oSetParameters (p1 p2 : S16) :
    exec (.oSetParameters p1 p2) s = .next ((s.withOsc { s.osc with param := ⟨p1, p2⟩ }).ok 0) :=
  congrArg Host.Outcome.next (whenRunning_running _ _ hs)

theorem exec_oSetPitch (p : S16) :
    exec (.oSetPitch p) s =
      .next ((s.withOsc { s.osc with pitch := smoothPitch cfg s.osc.pitch p }).ok 0) :=
  congrArg Host.Outcome.next (whenRunning_running _ _ hs)

theorem exec_oStrike : exec .oStrike s = .next ((s.withOsc { s.osc with strike := true }).ok 0) :=
  congrArg Host.Outcome.next (whenRunning_running _ _ hs)

theorem exec_oRead {sel : BitVec 4} {v : U32} (hv : readOscillator s.osc sel = some v) :
    exec (.oRead sel) s = .next { s with response := ⟨.ok, v⟩ } := by
  refine congrArg Host.Outcome.next ((whenRunning_running _ _ hs).trans ?_)
  simp only [hv]
  rfl

end

/-- Settles O42: the next state of each command is the old one with a new oscillator and the response 0. -/
theorem oscSetters : Obligations.OscSetters := by
  intro s hs
  exact ⟨⟨_, exec_oInit hs, rfl, onlyOscillator_withOsc s _ 0, rfl⟩,
    fun _ hcode => ⟨_, exec_oSetShape hs hcode, rfl, onlyOscillator_withOsc s _ 0, rfl⟩,
    fun p1 p2 => ⟨_, exec_oSetParameters hs p1 p2, rfl, onlyOscillator_withOsc s _ 0, rfl⟩,
    ⟨_, exec_oStrike hs, rfl, onlyOscillator_withOsc s _ 0, rfl⟩⟩

/-- Settles O48: each select reads its field, and `o.read` has a BAD_INDEX check at 9. -/
theorem oscRead : Obligations.OscRead := by
  intro s hs reads
  exact ⟨exec_oRead hs rfl, exec_oRead hs rfl, exec_oRead hs rfl, exec_oRead hs rfl, exec_oRead hs rfl,
    exec_oRead hs rfl, exec_oRead hs rfl, exec_oRead hs rfl, exec_oRead hs rfl, fun _ => faults_badIndex hs rfl⟩

/-! The pitch smoother (rule R394). -/

/-- The one-pole step of coefficient 1 is an interpolation step of `1 / 2 ^ n` of the way (40_fixedpoint.md rule
R167). -/
theorem onePole_one_eq_lerp (y x : Int) (n : Nat) : onePole y x 1 n = lerp y x 1 n := rfl

theorem onePole_one_between (y x : Int) (n : Nat) : min y x ≤ onePole y x 1 n ∧ onePole y x 1 n ≤ max y x := by
  rw [onePole_one_eq_lerp]
  exact lerp_between y x n.one_le_two_pow

/-- Above the threshold the smoother takes the one-pole step, which an s16 holds. -/
theorem smoothPitch_of_above {c : Params} {old p : S16} (hold : c.pitchSmoothThreshold.toInt < old.toInt)
    (hp : c.pitchSmoothThreshold.toInt < p.toInt) :
    (smoothPitch c old p).toInt = onePole old.toInt p.toInt 1 c.pitchSmoothShift := by
  have hstep := onePole_one_between old.toInt p.toInt c.pitchSmoothShift
  have hrange := toInt_s16_range old
  have hrange' := toInt_s16_range p
  rw [smoothPitch, if_pos ⟨hold, hp⟩]
  exact toInt_ofInt_s16 (by omega) (by omega)

theorem smoothPitch_of_below {c : Params} {old p : S16}
    (h : old.toInt ≤ c.pitchSmoothThreshold.toInt ∨ p.toInt ≤ c.pitchSmoothThreshold.toInt) :
    smoothPitch c old p = p := if_neg (by omega)

theorem smoothPitch_between (c : Params) (old p : S16) :
    min old.toInt p.toInt ≤ (smoothPitch c old p).toInt ∧ (smoothPitch c old p).toInt ≤ max old.toInt p.toInt := by
  by_cases h : c.pitchSmoothThreshold.toInt < old.toInt ∧ c.pitchSmoothThreshold.toInt < p.toInt
  · obtain ⟨hold, hp⟩ := h
    rw [smoothPitch_of_above hold hp]
    exact onePole_one_between _ _ _
  · rw [smoothPitch_of_below (by omega)]
    exact ⟨min_le_right _ _, le_max_right _ _⟩

/-- Settles O43: the pitch stored is the smoother's, and nothing else changes. -/
theorem oscSetPitch : Obligations.OscSetPitch := by
  intro s p hs old threshold
  refine ⟨_, exec_oSetPitch hs p, rfl, onlyOscillator_withOsc s _ 0, rfl, fun hold hp => ?above,
    smoothPitch_of_below, smoothPitch_between cfg s.osc.pitch p⟩
  exact (smoothPitch_of_above hold hp).trans (by rw [onePole, mul_one])

end Sys2Proof.Machine
end

section
/-! PROOFS. The phase increment (47_oscillator.md rules R396 and R397): a pitch falls in some octave below the
table's end, and its increment is the table interpolated in one octave, halved once for each octave down. -/

namespace Sys2Proof.Machine

open Sys2Proof.Config

/-! The octave folding. -/

/-- A reference of at most the table's last lies `k` octaves below a place `r` in the table's octave. -/
theorem exists_octave {ref : Int} (h : ref ≤ 1535) : ∃ r k : Nat, r < 1536 ∧ ref = r - 1536 * k :=
  ⟨(ref % 1536).toNat, (-(ref / 1536)).toNat, by omega, by omega⟩

theorem foldFuel_of_octave {r : Nat} (hr : r < 1536) (k : Nat) : foldFuel (r - 1536 * k) = k := by
  unfold foldFuel
  omega

theorem foldOctaves_of_octave {r : Nat} (hr : r < 1536) (k folds : Nat) :
    foldOctaves k (r - 1536 * k) folds = ((r : Int), folds + k) := by
  induction k generalizing folds with
  | zero => simp [foldOctaves]
  | succ k ih =>
    have hneg : (r : Int) - 1536 * (k + 1 : Nat) < 0 := by omega
    have hup : (r : Int) - 1536 * (k + 1 : Nat) + octave = r - 1536 * k := by rw [octave]; omega
    rw [foldOctaves, if_pos hneg, hup, ih, Nat.add_right_comm, Nat.add_assoc]

/-- The reference of a pitch in the table, clamped at the table's last place. -/
def pitchRef (c : Params) (p : S16) : Int := min (p.toInt - c.pitchTableStart.toInt) 1535

theorem computePhaseIncrement_of_octave {c : Params} {p : S16} {r k : Nat} (hr : r < 1536)
    (h : pitchRef c p = r - 1536 * k) :
    computePhaseIncrement c p = BitVec.ofInt 32 (interpolateInc c r) >>> k := by
  have hclamp : (if p.toInt - c.pitchTableStart.toInt > octave - 1 then octave - 1
      else p.toInt - c.pitchTableStart.toInt) = r - 1536 * k := by
    rw [← h, pitchRef, octave]
    split <;> omega
  simp only [computePhaseIncrement, hclamp, foldFuel_of_octave hr, foldOctaves_of_octave hr, zero_add,
    Int.toNat_natCast]

/-! The interpolation in one octave. -/

/-- A further step towards a higher entry is no lower. -/
theorem lerp_mono_frac {a b : Int} (h : a ≤ b) {frac frac' : Nat} (hf : frac ≤ frac') (n : Nat) :
    lerp a b frac n ≤ lerp a b frac' n := by
  have hprod : (b - a) * frac ≤ (b - a) * frac' :=
    mul_le_mul_of_nonneg_left (Int.ofNat_le.mpr hf) (by omega)
  have hpos : (0 : Int) < (2 ^ n : Nat) := Int.natCast_pos.mpr n.two_pow_pos
  rw [lerp, lerp, Int.shiftRight_eq_div_pow, Int.shiftRight_eq_div_pow]
  exact Int.add_le_add_left (Int.ediv_le_ediv hpos hprod) a

theorem interpolateInc_eq_lerp (c : Params) (r : Nat) : interpolateInc c r =
    lerp (incAt c (r / 2 ^ c.lutFracBits)) (incAt c (r / 2 ^ c.lutFracBits + 1)) (r % 2 ^ c.lutFracBits)
      c.lutFracBits := by
  rw [interpolateInc, Nat.shiftRight_eq_div_pow]
  rfl

section
variable {c : Params} (hc : c.WellFormed)
include hc

/-- A place in the table's octave lies between two entries of the table. -/
theorem tableIndex_lt {r : Nat} (hr : r < 1536) : r / 2 ^ c.lutFracBits < 1536 / 2 ^ c.lutFracBits := by
  obtain ⟨-, -, hdvd⟩ := hc.frac_bits
  exact Nat.div_lt_div_of_lt_of_dvd hdvd hr

theorem incAt_mono {i j : Nat} (hij : i ≤ j) (hj : j ≤ 1536 / 2 ^ c.lutFracBits) : incAt c i ≤ incAt c j := by
  induction j, hij using Nat.le_induction with
  | base => exact le_rfl
  | succ j _ ih =>
    have hrise := hc.table_rises j (by rw [hc.table_length]; omega)
    exact (ih (by omega)).trans (Int.ofNat_le.mpr hrise)

/-- The interpolated value lies between the entries around the place. -/
theorem interpolateInc_between {r : Nat} (hr : r < 1536) :
    incAt c (r / 2 ^ c.lutFracBits) ≤ interpolateInc c r ∧
      interpolateInc c r ≤ incAt c (r / 2 ^ c.lutFracBits + 1) := by
  have hrise := incAt_mono hc (Nat.le_succ (r / 2 ^ c.lutFracBits)) (tableIndex_lt hc hr)
  have hstep := lerp_between (incAt c (r / 2 ^ c.lutFracBits)) (incAt c (r / 2 ^ c.lutFracBits + 1))
    (Nat.mod_lt r c.lutFracBits.two_pow_pos).le
  rw [interpolateInc_eq_lerp]
  rwa [min_eq_left hrise, max_eq_right hrise] at hstep

theorem interpolateInc_mono {r r' : Nat} (h : r ≤ r') (hr' : r' < 1536) :
    interpolateInc c r ≤ interpolateInc c r' := by
  obtain hlt | heq := (Nat.div_le_div_right (c := 2 ^ c.lutFracBits) h).lt_or_eq
  · calc interpolateInc c r
      _ ≤ incAt c (r / 2 ^ c.lutFracBits + 1) := (interpolateInc_between hc (h.trans_lt hr')).2
      _ ≤ incAt c (r' / 2 ^ c.lutFracBits) := incAt_mono hc hlt (tableIndex_lt hc hr').le
      _ ≤ interpolateInc c r' := (interpolateInc_between hc hr').1
  · have hfrac : r % 2 ^ c.lutFracBits ≤ r' % 2 ^ c.lutFracBits := by
      have hsplit := Nat.div_add_mod r (2 ^ c.lutFracBits)
      have hsplit' := Nat.div_add_mod r' (2 ^ c.lutFracBits)
      rw [heq] at hsplit
      omega
    have hrise := incAt_mono hc (Nat.le_succ (r' / 2 ^ c.lutFracBits)) (tableIndex_lt hc hr')
    rw [interpolateInc_eq_lerp, interpolateInc_eq_lerp, heq]
    exact lerp_mono_frac hrise hfrac _

/-- No value in the octave is more than twice another: the table spans one octave. -/
theorem interpolateInc_le_double {r r' : Nat} (hr : r < 1536) (hr' : r' < 1536) :
    interpolateInc c r ≤ 2 * interpolateInc c r' :=
  calc interpolateInc c r
    _ ≤ incAt c (r / 2 ^ c.lutFracBits + 1) := (interpolateInc_between hc hr).2
    _ ≤ incAt c (1536 / 2 ^ c.lutFracBits) := incAt_mono hc (tableIndex_lt hc hr) le_rfl
    _ ≤ 2 * incAt c 0 := Int.ofNat_le.mpr hc.table_octave
    _ ≤ 2 * incAt c (r' / 2 ^ c.lutFracBits) := by
      have hfirst := incAt_mono hc (Nat.zero_le _) (tableIndex_lt hc hr').le
      omega
    _ ≤ 2 * interpolateInc c r' := by
      have hlow := (interpolateInc_between hc hr').1
      omega

/-! The increment. -/

/-- The increment is the interpolated value, halved for each octave below the table's. -/
theorem toNat_computePhaseIncrement {p : S16} {r k : Nat} (hr : r < 1536) (h : pitchRef c p = r - 1536 * k) :
    (computePhaseIncrement c p).toNat = (interpolateInc c r).toNat / 2 ^ k := by
  obtain ⟨hlo, hhi⟩ := interpolateInc_between hc hr
  have hnonneg : 0 ≤ interpolateInc c r := (Int.natCast_nonneg _).trans hlo
  have hfits : interpolateInc c r < 2 ^ 32 := hhi.trans_lt (Int.ofNat_lt.mpr (BitVec.isLt _))
  rw [computePhaseIncrement_of_octave hr h, BitVec.toNat_ushiftRight, Nat.shiftRight_eq_div_pow, BitVec.toNat_ofInt,
    Int.emod_eq_of_lt hnonneg (by exact_mod_cast hfits)]

end

/-- Settles O44: in one octave by the order of the table, and one octave or more down because the halved value is at
most any of the octave above. -/
theorem phaseIncrementMonotone : Obligations.PhaseIncrementMonotone := by
  intro c p q hc hpq
  have hrefs : pitchRef c p ≤ pitchRef c q := min_le_min_right _ (by omega)
  obtain ⟨r, k, hr, hp⟩ := exists_octave (min_le_right _ _ : pitchRef c p ≤ 1535)
  obtain ⟨r', k', hr', hq⟩ := exists_octave (min_le_right _ _ : pitchRef c q ≤ 1535)
  rw [toNat_computePhaseIncrement hc hr hp, toNat_computePhaseIncrement hc hr' hq]
  obtain rfl | hk : k = k' ∨ k' + 1 ≤ k := by omega
  · exact Nat.div_le_div_right (Int.toNat_le_toNat (interpolateInc_mono hc (by omega) hr'))
  · have hdouble := interpolateInc_le_double hc hr hr'
    calc (interpolateInc c r).toNat / 2 ^ k
      _ ≤ (interpolateInc c r).toNat / 2 ^ (k' + 1) :=
        Nat.div_le_div_left (Nat.pow_le_pow_right (by decide) hk) (Nat.two_pow_pos _)
      _ = (interpolateInc c r).toNat / 2 / 2 ^ k' := by rw [pow_succ', Nat.div_div_eq_div_mul]
      _ ≤ (interpolateInc c r').toNat / 2 ^ k' := Nat.div_le_div_right (by omega)

/-- Settles O45: an octave up is the same place of the table's octave with one halving less. -/
theorem phaseIncrementOctave : Obligations.PhaseIncrementOctave := by
  intro c p q hc hp hq
  obtain ⟨r, k, hr, hpr⟩ := exists_octave (min_le_right _ _ : pitchRef c p ≤ 1535)
  have hpRef : pitchRef c p = p.toInt - c.pitchTableStart.toInt := min_eq_left (by omega)
  have hqRef : pitchRef c q = q.toInt - c.pitchTableStart.toInt := min_eq_left (by omega)
  obtain ⟨k, rfl⟩ : ∃ m, k = m + 1 := Nat.exists_eq_add_of_le' (by omega)
  have hqr : pitchRef c q = r - 1536 * k := by omega
  rw [toNat_computePhaseIncrement hc hr hpr, toNat_computePhaseIncrement hc hr hqr, pow_succ,
    ← Nat.div_div_eq_div_mul]
  omega

end Sys2Proof.Machine
end

section
/-! PROOFS. The first render after a shape change sees nothing an earlier shape left (47_oscillator.md rules R398 and
R403). -/

namespace Sys2Proof.Machine

open Sys2Proof.Config

/-- After a shape change the renderer finds an oscillator made of the shape, the pitch, the parameters and the strike
alone. -/
theorem renderStart_of_changed (c : Params) {o : Oscillator} (h : o.shape ≠ o.prevShape) :
    renderStart c o =
      { oscInit c with
        shape := o.shape, prevShape := o.shape, pitch := o.pitch, param := o.param, strike := o.strike
        phaseInc := computePhaseIncrement c o.pitch } := by
  rw [renderStart, shapeInit, if_pos h]
  rfl

/-- A render uses the oscillator only as the renderer finds it. -/
theorem oscRender_congr {c : Params} {o o' : Oscillator} (h : renderStart c o' = renderStart c o) (sync : List U8)
    (n : Nat) (d : Draws) : oscRender c o' sync n d = oscRender c o sync n d := by
  rw [oscRender, oscRender, h]

theorem renderState_withOsc {c : Params} {s : State} {o : Oscillator}
    (h : renderStart c o = renderStart c s.osc) (n : Nat) : renderState c n (s.withOsc o) = renderState c n s := by
  have hrender : oscRender c (s.withOsc o).osc ((s.withOsc o).hostPort.syncBytes n) n (s.withOsc o).draws =
      oscRender c s.osc (s.hostPort.syncBytes n) n s.draws := oscRender_congr h _ n _
  rw [renderState, renderState, hrender]
  rfl

/-- Settles O47: both oscillators start the renderer alike, and the render replaces the rest. -/
theorem renderForgets : Obligations.RenderForgets := by
  intro s o size hs hlo hhi hchanged hchanged' hshape hpitch hparam hstrike
  have hstart : renderStart cfg o = renderStart cfg s.osc := by
    rw [renderStart_of_changed cfg hchanged, renderStart_of_changed cfg hchanged', hshape, hpitch, hparam, hstrike]
  refine ⟨_, exec_oRender hs hlo hhi, ?_, rfl⟩
  rw [exec_oRender (s := s.withOsc o) hs hlo hhi, renderState_withOsc hstart]

end Sys2Proof.Machine
end

section
/-! PROOFS. The DAC transform, `m.read8`, `m.read16` and `m.write16` on the host port (48_host_port.md rules R430 and
R432 to R435). -/

namespace Sys2Proof.Machine

/-- A response alone changes no unit. -/
theorem onlyResponds_ok (s : State) (value : U32) : OnlyResponds s (s.ok value) :=
  ⟨⟨rfl, rfl, rfl⟩, ⟨rfl, rfl⟩, rfl, fun _ => rfl⟩

/-! What each command answers when its operands are legal. -/

section
variable {s : State} (hs : s.halted = false)
include hs

theorem exec_dacCode {ch : BitVec 4} {k : Fin 2} (hk : ch.toNat = k.val) (v : S16) :
    exec (.dacCode ch v) s = .next (s.ok (dacTransform .unsigned16 v (s.sys.dacOffset.get k))) := by
  simp only [exec, execDacCode, dacCode, whenRunning_running _ _ hs, dacChannel_of_lt hk]

theorem exec_dacSetOffset {ch : BitVec 4} {k : Fin 2} (hk : ch.toNat = k.val) (off : S16) :
    exec (.dacSetOffset ch off) s = .next ((s.withDacOffset k off).ok 0) := by
  simp only [exec, execDacSetOffset, dacSetOffset, whenRunning_running _ _ hs, dacChannel_of_lt hk]

theorem exec_mRead8 {a : U16} (ha : a.toNat < 768) :
    exec (.mRead8 a) s = .next (s.ok ((s.hostPort.read a.toNat).zeroExtend 32)) := by
  simp only [exec, execMRead8, mRead8, whenRunning_running _ _ hs, address8_of_lt ha]

theorem exec_mRead16 {a : U16} (ha : a.toNat < 767) (even : a.toNat % 2 = 0) :
    exec (.mRead16 a) s = .next (s.ok (zext32 (s.hostPort.read16 a.toNat))) := by
  simp only [exec, execMRead16, mRead16, whenRunning_running _ _ hs, address16_of_even (Nat.succ_lt_succ ha) even]

theorem exec_mWrite16 {a : U16} (ha : a.toNat < 767) (even : a.toNat % 2 = 0) (data : U16) :
    exec (.mWrite16 a data) s = .next ((s.withHostPort (s.hostPort.write16 a.toNat data)).ok 0) := by
  simp only [exec, execMWrite16, mWrite16, whenRunning_running _ _ hs, address16_of_even (Nat.succ_lt_succ ha) even]

end

/-! The DAC transform. -/

/-- The code saturates at both ends of the unsigned range, so 32 bits hold it (90_conflicts.md C3). -/
theorem toNat_dacTransform (value offset : S16) :
    ((dacTransform .unsigned16 value offset).toNat : Int) =
      max 0 (min 65535 (32767 - value.toInt + offset.toInt)) := by
  simp only [dacTransform, dacBound, clampU16, constrain, BitVec.toNat_ofInt]
  omega

/-- Settles O16: the response is the saturated transform, and nothing is written. -/
theorem dacCode_holds : Obligations.DacCode := by
  intro s ch v hs
  exact ⟨fun k hk => ⟨_, exec_dacCode hs hk v, onlyResponds_ok s _, rfl, toNat_dacTransform v _⟩,
    faults_badIndex hs rfl⟩

/-- Settles O17: the system unit is the old one with one offset set. -/
theorem dacSetOffset_holds : Obligations.DacSetOffset := by
  intro s ch off hs
  refine ⟨fun k hk => ⟨_, exec_dacSetOffset hs hk off, rfl, ?stored, fun j hj => ?other, rfl, rfl, rfl, ⟨rfl, rfl⟩,
    rfl, fun _ => rfl, rfl, rfl⟩, faults_badIndex hs rfl⟩
  case stored => exact Pair.get_set_self s.sys.dacOffset k off
  case other => exact Pair.get_set_ne s.sys.dacOffset k j off hj

/-! Little-endian halfwords (20_memory.md rule R86). -/

theorem Memory.toNat_read16 (m : Memory) (a : Nat) :
    (m.read16 a).toNat = (m.read a).toNat + 256 * (m.read (a + 1)).toNat := by
  rw [Memory.read16, BitVec.toNat_append, ← Nat.shiftLeft_add_eq_or_of_lt (m.read a).isLt, Nat.shiftLeft_eq]
  omega

@[simp] theorem toNat_zext32 (v : U16) : (zext32 v).toNat = v.toNat :=
  BitVec.toNat_setWidth_of_le (by decide)

theorem toNat_lowByte (v : U16) : (v.extractLsb' 0 8).toNat = v.toNat % 256 := by
  simp

theorem toNat_highByte (v : U16) : (v.extractLsb' 8 8).toNat = v.toNat / 256 := by
  rw [BitVec.extractLsb'_toNat, Nat.shiftRight_eq_div_pow]
  omega

/-- Settles O18: the response is the byte, or the two bytes joined, and nothing is written. -/
theorem hostReads : Obligations.HostReads := by
  intro s a hs
  refine ⟨fun ha => ⟨_, exec_mRead8 hs ha, onlyResponds_ok s _, rfl⟩, faults_unmapped8 hs rfl,
    fun ha even => ⟨_, exec_mRead16 hs ha even, onlyResponds_ok s _, rfl, ?halfword⟩, faults_unmapped16 hs rfl,
    faults_misaligned hs rfl⟩
  case halfword => exact (toNat_zext32 _).trans (s.hostPort.toNat_read16 a.toNat)

/-- Settles O20: the memory is the old one with a halfword written, and no other unit is touched. -/
theorem hostWrite16 : Obligations.HostWrite16 := by
  intro s a data hs
  refine ⟨fun ha even hwf => ⟨_, exec_mWrite16 hs ha even data, rfl, ?low, ?high, fun b hb hb' => ?others, ?canonical,
    ⟨rfl, rfl, rfl⟩, ⟨rfl, rfl⟩, rfl⟩, faults_unmapped16 hs rfl, faults_misaligned hs rfl⟩
  all_goals rw [State.ok_hostPort, State.withHostPort_hostPort]
  case low => rw [Memory.read_write16 _ _ _ data hwf, if_pos rfl, toNat_lowByte]
  case high => rw [Memory.read_write16 _ _ _ data hwf, if_neg (Nat.succ_ne_self _), if_pos rfl, toNat_highByte]
  case others => exact Memory.read_write16_other _ _ _ data hb hb'
  case canonical => exact Memory.wf_write16 _ _ data hwf

end Sys2Proof.Machine
end

section
/-! PROOFS. `sys.status` and `sys.reset`, the two commands a halted block performs, and the state after reset
(48_host_port.md rules R436 and R437; 70_reset_and_hazards.md rules R481 and R482). -/

namespace Sys2Proof.Machine

open Sys2Proof.Config

/-! `sys.status`. -/

theorem exec_sysStatus {s : State} {sel : BitVec 4} {v : U32} (hv : readSystem s.sys sel = some v) :
    exec (.sysStatus sel) s = .next (s.ok v) := by
  simp only [exec, execSysStatus, sysStatus, hv]

/-- A select without a field raises BAD_INDEX, halted or not; `raiseFault` tells the two apart. -/
theorem exec_sysStatus_of_ge {s : State} {sel : BitVec 4} (h : 6 ≤ sel.toNat) :
    exec (.sysStatus sel) s = .next (raiseFault .badIndex (encode (.sysStatus sel)) s) := by
  simp only [exec, execSysStatus, sysStatus, (readSystem_eq_none s.sys sel).mpr h]

/-- Settles O15: each select reads its field; a halted block answers an illegal one without a fault entry. -/
theorem sysStatus_holds : Obligations.SysStatus := by
  intro s
  refine ⟨exec_sysStatus rfl, exec_sysStatus rfl, exec_sysStatus rfl, exec_sysStatus rfl, exec_sysStatus rfl,
    exec_sysStatus rfl, fun sel hsel => ⟨fun hs => faults_badIndex hs rfl hsel, fun hs => ?halted⟩⟩
  case halted =>
    rw [exec_sysStatus_of_ge hsel, raiseFault_halted _ _ _ hs]
    rfl

/-! `sys.reset`. -/

/-- The reset is the way back from the halted state (60_exceptions.md rule R456). -/
@[simp] theorem halted_sysReset (c : Params) (s : State) : (sysReset c s).halted = false := by
  have hstatus : statusFaulted 0 = false := by decide
  exact hstatus

/-- Settles O14: the reset action takes from the state it finds only what the host and the model own. -/
theorem sysReset_holds : Obligations.SysReset := fun s =>
  ⟨sysReset cfg s, rfl, rfl, rfl, rfl, rfl, rfl, fun _ => rfl, halted_sysReset cfg s⟩

/-! The state after reset. -/

theorem reset_proc (ch : Chan) : State.reset.proc ch = channelInit cfg := by
  cases ch <;> rfl

/-- Settles O13: each channel is the cleared one with its bass drum configured, and the oscillator is as `o.init`
leaves it. -/
theorem resetValues : Obligations.ResetValues := by
  refine ⟨rfl, rfl, rfl, rfl, fun ch => ?channel, rfl, rfl, rfl, rfl, rfl, rfl, rfl, rfl, rfl, rfl,
    Quad.get_same excInit, Triple.get_same svfInit, fun _ => rfl, rfl⟩
  case channel =>
    rw [reset_proc, channelInit_eq]
    exact ⟨rfl, rfl, rfl, rfl, rfl, rfl, rfl, rfl, rfl, rfl, rfl, rfl, rfl, rfl, rfl, rfl, rfl⟩

/-- Settles O57: both hold of the parts the reset puts together. -/
theorem resetInvariant : Obligations.ResetInvariant :=
  ⟨inv_reset, coupled_init cfg, coupled_init cfg⟩

end Sys2Proof.Machine
end

section
/-! PROOFS. Faults and the halted state, step by step (60_exceptions.md rules R452 to R457 and R469). -/

namespace Sys2Proof.Machine

open Sys2Proof.Config

/-! Every step answers. -/

theorem exec_answers (i : Instr) (s : State) : ∃ t, exec i s = .next t := by
  by_cases hi : i = .sysReset
  · exact ⟨sysReset cfg s, by rw [hi]; rfl⟩
  · obtain ⟨t, ht, -⟩ := exec_effect i s hi
    exact ⟨t, ht⟩

/-- Settles O10: taking a command ends in a state or in a command to run, and every command answers. -/
theorem stepAnswersNext : Obligations.StepAnswersNext := by
  intro s
  unfold step
  split
  · exact ⟨s, rfl⟩
  · exact ⟨_, rfl⟩
  · exact exec_answers _ _

/-- Settles O11: there is no command to take. -/
theorem idleStep : Obligations.IdleStep := by
  intro s hp
  rw [step, takeCommand_idle s hp]

/-! What a halted block still takes. -/

/-- A word with the OP of `sys.status` or `sys.reset`. -/
theorem acceptedHalted_iff {w : Command} : acceptedHalted w = true ↔ opOf w = 0x60 ∨ opOf w = 0x61 := by
  simp [acceptedHalted]

/-- The OPs 0x60 and 0x61 are those of `sys.status` and `sys.reset` alone. -/
theorem system_of_op {i : Instr} (h : (fieldsOfInstr i).op = 0x60 ∨ (fieldsOfInstr i).op = 0x61) :
    (∃ sel, i = .sysStatus sel) ∨ i = .sysReset := by
  cases i
  case sysStatus sel => exact .inl ⟨sel, rfl⟩
  case sysReset => exact .inr rfl
  all_goals simp [fieldsOfInstr] at h

theorem system_of_accepted {w : Command} {i : Instr} (hd : decode w = .ok i) (ha : acceptedHalted w = true) :
    (∃ sel, i = .sysStatus sel) ∨ i = .sysReset :=
  system_of_op (opOf_of_decode hd ▸ acceptedHalted_iff.mp ha)

section
variable {s : State} {w : Command} {rest : List Command} (hp : s.pending = w :: rest)
include hp

/-! A command that fails a check. -/

/-- A word that is taken and fails a check of its fields or of its operands raises the fault it is illegal for, with
no other effect. -/
theorem step_of_commandFault {cause : Cause} (ha : s.halted = false ∨ acceptedHalted w = true)
    (hf : commandFault cfg w = some cause) : step s = .next (raiseFault cause w { s with pending := rest }) := by
  unfold commandFault at hf
  split at hf
  · next hd =>
    cases hf
    rw [step, takeCommand_illegal s w rest cause hp ha hd]
  · next i hd =>
    rw [stepRunsDecoded s w rest i hp hd, ← encodeDecode w i hd]
    rcases ha with hs | ha
    · exact exec_of_operandFault hs hf
    · obtain ⟨sel, rfl⟩ | rfl := system_of_accepted hd ha
      · obtain ⟨hsel, rfl⟩ := subBelow_fails hf
        exact exec_sysStatus_of_ge hsel
      · cases hf

/-! Steps of a halted block. -/

theorem step_refused (hs : s.halted = true) (h60 : opOf w ≠ 0x60) (h61 : opOf w ≠ 0x61) :
    step s = .next (({ s with pending := rest } : State).respond .halted 0) := by
  have ha : acceptedHalted w = false := by
    simpa [← Bool.not_eq_true, acceptedHalted_iff] using And.intro h60 h61
  rw [step, takeCommand_halted s w rest hp hs ha]

/-- The word of `sys.reset` resets the block; every other word is answered with a response alone. -/
theorem step_halted_cases (hs : s.halted = true) :
    (w = encode .sysReset ∧ step s = .next (sysReset cfg { s with pending := rest })) ∨
      ∃ kind value, step s = .next (({ s with pending := rest } : State).respond kind value) := by
  by_cases ha : acceptedHalted w = true
  · have hh : ({ s with pending := rest } : State).halted = true := hs
    cases hf : commandFault cfg w with
    | some cause =>
      rw [step_of_commandFault hp (.inr ha) hf, raiseFault_halted _ _ _ hh]
      exact .inr ⟨_, _, rfl⟩
    | none =>
      unfold commandFault at hf
      split at hf
      · cases hf
      · next i hd =>
        rw [stepRunsDecoded s w rest i hp hd]
        obtain ⟨sel, rfl⟩ | rfl := system_of_accepted hd ha
        · cases hv : readSystem s.sys sel with
          | some v => exact .inr ⟨_, _, exec_sysStatus hv⟩
          | none =>
            rw [exec_sysStatus_of_ge ((readSystem_eq_none _ sel).mp hv), raiseFault_halted _ _ _ hh]
            exact .inr ⟨_, _, rfl⟩
        · exact .inl ⟨eq_resetWord_of_decode hd, rfl⟩
  · rw [step, takeCommand_halted s w rest hp hs (by simpa using ha)]
    exact .inr ⟨_, _, rfl⟩

end

/-- Settles O6: fault entry is `raiseFault` in a block that runs. -/
theorem faultEntry : Obligations.FaultEntry := fun _ w _ cause hp hs hf =>
  ⟨_, step_of_commandFault hp (.inl hs) hf, tookFault_raiseFault cause w _ hs⟩

/-- Settles O8: a word refused unread, a fault without an entry, a read of the status, and the reset. -/
theorem haltedState : Obligations.HaltedState := by
  intro s w rest hp hs
  refine ⟨step_refused hp hs, fun hop cause hf => ?fault, fun sel v hw hv => ?status, fun hw => ?reset⟩
  case fault =>
    rw [step_of_commandFault hp (.inr (acceptedHalted_iff.mpr hop)) hf,
      raiseFault_halted cause w { s with pending := rest } hs]
    rfl
  case status =>
    rw [stepRunsDecoded s w rest (.sysStatus sel) hp (hw ▸ decodeEncode _)]
    exact exec_sysStatus hv
  case reset =>
    rw [stepRunsDecoded s w rest .sysReset hp (hw ▸ decode_resetWord)]
    exact ⟨_, rfl, halted_sysReset cfg _, rfl, rfl, rfl, rfl, rfl, rfl⟩

/-- Settles O9: a response alone writes neither field and leaves the block halted, so only the reset gets it running
again. -/
theorem faultsDoNotNest : Obligations.FaultsDoNotNest := by
  intro s t hs h
  cases hp : s.pending with
  | nil =>
    cases (idleStep s hp).symm.trans h
    exact ⟨fun _ => ⟨rfl, rfl⟩, fun hrunning => absurd (hs.symm.trans hrunning) (by decide)⟩
  | cons w rest =>
    obtain ⟨rfl, hstep⟩ | ⟨kind, value, hstep⟩ := step_halted_cases hp hs
    · cases hstep.symm.trans h
      exact ⟨fun hhalted => by simp at hhalted, fun _ => ⟨rest, rfl⟩⟩
    · cases hstep.symm.trans h
      exact ⟨fun _ => ⟨rfl, rfl⟩, fun hrunning => absurd (hs.symm.trans hrunning) (by decide)⟩

end Sys2Proof.Machine
end
